-- ==== Sys2Proof/Word.lean ====
section
/-! DEFINITION. The words of the three channels and the bytes of the Frame Buffer (spec 30_encoding.md R60,
20_memory.md R40). -/

namespace Sys2Proof

/-- A word of the channels CMD, RSP and SYM (R60). -/
abbrev Word := BitVec 32

/-- A byte of the Frame Buffer, and one channel of a colour (R40, R44). -/
abbrev Byte := BitVec 8

end Sys2Proof
end

