-- ==== Sys2Proof/Config.lean ====
section
/-! DEFINITION. The parameters of an implementation (spec 00_scope.md section 4) and the free values: constants with no
body, so that nothing can be proved of what the spec leaves open. -/

namespace Sys2Proof.Config

/-- R9: the width of one half-period duration field of a Pulse Symbol. -/
abbrev durBits : Nat := 15

/-- R9: the longest half-period, 2^15 - 1 = 32767 ticks. -/
abbrev durMax : Nat := 32767

/-- R12: the width of the argument field of a command header. -/
abbrev argBits : Nat := 28

/-- The OPEN parameters of R6, R7, R8, R10 and R11. They are fixed for a run; State carries them so that every
statement about a state is a statement for all their values (DESIGN CHOICE, log entry 1). -/
structure Params where
  /-- R6 `TICK_HZ`. -/
  tickHz : Nat
  /-- R7 `TOL_NS`. -/
  tolNs : Nat
  /-- R8 `PERIOD_NOM_NS`. -/
  periodNomNs : Nat
  /-- R10 `MAX_LEDS`. -/
  maxLeds : Nat
  /-- R11 `EXACT_FIT_SETS_MEMFULL`. -/
  exactFitSetsMemFull : Bool
  deriving DecidableEq, Repr

/-- The bounds R6, R8 and R10 put on the parameters. -/
def Params.wf (p : Params) : Bool :=
  decide (0 < p.tickHz) && decide (0 < p.periodNomNs) && decide (p.maxLeds < 2 ^ argBits)

/-- R10: `MAX_LEDS` has no reference value: a free value within its bound (log entry 1). -/
opaque openMaxLeds : Fin (2 ^ 28)

/-- R11: `EXACT_FIT_SETS_MEMFULL` has no reference value: a free value (log entry 1). -/
opaque openExactFit : Bool

/-- The parameters of the machine `State.reset` stands for: the spec's reference values where it has one, free values
where it has none (DESIGN CHOICE, log entry 1). -/
def resetParams : Params where
  tickHz := 10000000
  tolNs := 150
  periodNomNs := 1200
  maxLeds := openMaxLeds.val
  exactFitSetsMemFull := openExactFit

/-- R31, U2: `T0H` after the k-th hardware reset, unspecified: a free value (log entry 3). -/
opaque freeT0H : Nat → BitVec 15
/-- R31, U2: `T0L` after the k-th hardware reset: a free value (log entry 3). -/
opaque freeT0L : Nat → BitVec 15
/-- R31, U2: `T1H` after the k-th hardware reset: a free value (log entry 3). -/
opaque freeT1H : Nat → BitVec 15
/-- R31, U2: `T1L` after the k-th hardware reset: a free value (log entry 3). -/
opaque freeT1L : Nat → BitVec 15
/-- R31, U2: `TRST` after the k-th hardware reset: a free value (log entry 3). -/
opaque freeTRST : Nat → BitVec 16

/-- R29, U13: the draw `alloc_ok` of the k-th SUBMIT for which State lists no draw: a free value (log entry 5). -/
opaque freeAllocOk : Nat → Bool

end Sys2Proof.Config
end

