-- ==== Sys2Proof/Machine/State.lean ====
section
/-! DEFINITION. The state of the block (spec 10_state.md R20 to R29), the channels and inputs the step reads and writes
(30_encoding.md R60, 10_state.md R29, 70_reset_and_hazards.md R160), the reasons a step can stop, and the state after
reset (R31, R161). -/

namespace Sys2Proof.Machine

/-- R15: a level and a duration, then a level and a duration. Level 1 is `true`. -/
structure PulseSymbol where
  l0 : Bool
  d0 : BitVec 15
  l1 : Bool
  d1 : BitVec 15
  deriving DecidableEq, Repr

/-- R21: whether the encoder has been constructed. -/
inductive Cfg where
  | unconfigured
  | ready
  | failed
  deriving DecidableEq, Repr

/-- R24, R100: the state of the Frame Encoder. -/
inductive FrameState where
  | idle
  | encoding
  | appendingReset
  | done
  deriving DecidableEq, Repr

/-- R25: the three session flags; their bit positions are `Flags.bits` (Machine/Flags.lean). -/
structure Flags where
  complete : Bool
  memoryFull : Bool
  reset : Bool
  deriving DecidableEq, Repr

/-- R22: the five registers of the Pulse Timing Table. -/
structure TimingTable where
  t0h : BitVec 15
  t0l : BitVec 15
  t1h : BitVec 15
  t1l : BitVec 15
  trst : BitVec 16
  deriving DecidableEq, Repr

/-- R132: the status of a response; the codes are `Status.code` (Machine/Operands.lean). -/
inductive Status where
  | ok
  | configError
  | allocFail
  | busy
  | notReady
  | noSession
  | sessionComplete
  | spuriousTxDone
  | illegalCommand
  | alreadyConfigured
  deriving DecidableEq, Repr

/-- R60: what leaves the block: a word on SYM, or the two words of a response on RSP. -/
inductive Emission where
  | sym (w : Word)
  | rsp (rsp0 rsp1 : Word)
  deriving DecidableEq, Repr

/-- The Frame Buffer as a list of cells (R26, R40): addresses strictly rising, an unlisted address has no value
(log entry 4). -/
abbrev Memory := List Host.Cell

/-- The whole state. -/
structure State where
  /-- R6 to R8, R10, R11: the parameters; no step changes them (log entry 1). -/
  params : Config.Params
  /-- R21 `cfg`. -/
  cfg : Cfg
  /-- R22 `T0H`, `T0L`, `T1H`, `T1L`, `TRST`. -/
  table : TimingTable
  /-- R24 `st`. -/
  st : FrameState
  /-- R25 `flags`. -/
  flags : Flags
  /-- R26 `L`. -/
  len : Nat
  /-- R26 `fb`. -/
  fb : Memory
  /-- R27 `pos`. -/
  pos : Nat
  /-- R28 `out`, the symbols pushed since the last accepted SUBMIT. -/
  out : List PulseSymbol
  /-- R60 CMD: the words sent and not yet consumed, oldest first (log entry 2). -/
  cmd : List Word
  /-- R160: the samples of the reset input, one for each step, the next first (log entry 6). -/
  resetLine : List Bool
  /-- R29: the draws of `alloc_ok`, one for each SUBMIT, the next first (log entry 5). -/
  allocDraws : List Bool
  /-- The model's own: how many SUBMITs have drawn (log entry 5). -/
  drawIndex : Nat
  /-- The model's own: how many hardware resets there have been (log entry 3). -/
  resetIndex : Nat
  /-- R60 SYM and RSP: all that has left the block, oldest first (log entry 8). -/
  chan : List Emission
  deriving DecidableEq, Repr

/-- Why a step stops with a fault. The spec has no traps (R130). -/
inductive Fault where
  /-- Raised by ENCODE alone, when it reads a Frame Buffer index at which no byte is listed. R41 says such a read cannot
  occur, and it cannot in a state that meets the invariant. Safe (log entry 4). -/
  | frameByteAbsent
  deriving DecidableEq, Repr

/-- Why a step is refused. -/
inductive Refusal where
  /-- Raised by an arm of `exec` that has no meaning yet; no arm is such. Safe. -/
  | notModelled (mnemonic : String)
  deriving DecidableEq, Repr

/-- R31, U2: the timing registers after the k-th hardware reset: free values (log entry 3). -/
def TimingTable.unspecified (k : Nat) : TimingTable where
  t0h := Config.freeT0H k
  t0l := Config.freeT0L k
  t1h := Config.freeT1H k
  t1l := Config.freeT1L k
  trst := Config.freeTRST k

/-- R31, R161: the block after hardware reset, for any parameters and any content of the unspecified registers, with
nothing sent to it yet. -/
def State.afterReset (params : Config.Params) (table : TimingTable) : State where
  params := params
  cfg := .unconfigured
  table := table
  st := .idle
  flags := ⟨false, false, false⟩
  len := 0
  fb := []
  pos := 0
  out := []
  cmd := []
  resetLine := []
  allocDraws := []
  drawIndex := 0
  resetIndex := 1
  chan := []

/-- The machine right after reset (R31, R161; log entries 1, 3, 18). -/
def State.reset : State := State.afterReset Config.resetParams (TimingTable.unspecified 0)

end Sys2Proof.Machine
end

