-- ==== Sys2Proof/Machine/Flags.lean ====
section
/-! DEFINITION. The flag register (spec 10_state.md R25, 30_encoding.md R69) and every way the commands write it. -/

namespace Sys2Proof.Machine

/-- R25: bit 0 `complete`, bit 1 `memory_full`, bit 2 `reset`. -/
def Flags.bits (f : Flags) : BitVec 3 :=
  BitVec.ofBool f.reset ++ BitVec.ofBool f.memoryFull ++ BitVec.ofBool f.complete

/-- R25: 000, no session. -/
def Flags.noSession : Flags := ⟨false, false, false⟩

/-- R103: 100, what an accepted SUBMIT leaves. -/
def Flags.fresh : Flags := ⟨false, false, true⟩

/-- R104: an accepted ENCODE begins by clearing `reset` and `memory_full`. -/
def Flags.beginInvocation (f : Flags) : Flags := { f with reset := false, memoryFull := false }

/-- R104: the reset symbol has been queued. -/
def Flags.setComplete (f : Flags) : Flags := { f with complete := true }

/-- R104: flow control. -/
def Flags.setMemoryFull (f : Flags) : Flags := { f with memoryFull := true }

end Sys2Proof.Machine
end

