-- ==== Sys2Proof/Syntax.lean ====
section
/-! DEFINITION. The commands (spec 30_encoding.md R61 to R65) as one inductive type, one constructor for each row of
the opcode table, and the two roles that issue them (60_exceptions.md R148). -/

namespace Sys2Proof

/-- A colour in the Caller's channel order (R63): three independent bytes. -/
structure Colour where
  r : Byte
  g : Byte
  b : Byte
  deriving DecidableEq, Repr

/-- The four commands of R61. -/
inductive Instr where
  /-- R62: five 32-bit unsigned operand words. -/
  | config (t0h t0l t1h t1l trst : Word)
  /-- R63: the colours, LED 0 first. Bits 31:24 of a colour word are ignored and not kept (log entry 12). -/
  | submit (colours : List Colour)
  /-- R64: `space`, a 28-bit unsigned number. -/
  | encode (space : BitVec 28)
  /-- R65: no operand. -/
  | txdone
  deriving DecidableEq, Repr

/-- R148: the two roles outside the block. The block does not check them. -/
inductive Role where
  | caller
  | channelDriver
  deriving DecidableEq, Repr

/-- R148: which role owns a command. -/
def Instr.issuedBy : Instr → Role
  | .config _ _ _ _ _ => .caller
  | .submit _ => .caller
  | .encode _ => .channelDriver
  | .txdone => .channelDriver

end Sys2Proof
end

