-- ==== Sys2Proof/WellFormed.lean ====
section
/-! DEFINITION. Which commands can be written as words: the number of colours of a SUBMIT must fit the 28-bit argument
field (spec 30_encoding.md R63, 00_scope.md R12). The other operands are bounded by their types. -/

namespace Sys2Proof

/-- A command that the CMD format can carry (R12, R63). -/
def Instr.wf : Instr → Bool
  | .config _ _ _ _ _ => true
  | .submit colours => decide (colours.length < 2 ^ Config.argBits)
  | .encode _ => true
  | .txdone => true

end Sys2Proof
end

