-- ==== Sys2Proof/Decode.lean ====
section
/-! DEFINITION. From the words on CMD to commands, total on any words (spec 30_encoding.md R61 to R67, R71), the encoder
back, and the reading of one opcode-table word. -/

namespace Sys2Proof

/-- What the words standing on CMD are (R60, R67, R71). -/
inductive Decoded where
  /-- No whole command has come: no word at all, or fewer words than the header announces (log entry 2). -/
  | incomplete
  /-- A header that is no command; it is one word long (R67). -/
  | illegal (rest : List Word)
  /-- A whole command, and the words after it. -/
  | command (i : Instr) (rest : List Word)
  deriving DecidableEq, Repr

/-- R61: bits 31:28 of a header. -/
def opField (h : Word) : BitVec 4 := h.extractLsb' 28 4

/-- R61: bits 27:0 of a header. -/
def argField (h : Word) : BitVec 28 := h.extractLsb' 0 28

/-- R66: the colour a word carries; bits 31:24 are ignored (R63). -/
def colourOfWord (w : Word) : Colour where
  r := w.extractLsb' 16 8
  g := w.extractLsb' 8 8
  b := w.extractLsb' 0 8

/-- R63: the first `n` words as colours, or nothing if fewer have come. -/
def takeColours : Nat → List Word → Option (List Colour × List Word)
  | 0, ws => some ([], ws)
  | _ + 1, [] => none
  | n + 1, w :: ws =>
    match takeColours n ws with
    | none => none
    | some (cs, rest) => some (colourOfWord w :: cs, rest)

/-- The command at the front of the words on CMD (R61 to R67). -/
def decode (ws : List Word) : Decoded :=
  match ws with
  | [] => .incomplete
  | h :: ops =>
    if opField h = 1#4 then
      if argField h = 0#28 then
        match ops with
        | t0h :: t0l :: t1h :: t1l :: trst :: rest => .command (.config t0h t0l t1h t1l trst) rest
        | _ => .incomplete
      else .illegal ops
    else if opField h = 2#4 then
      match takeColours (argField h).toNat ops with
      | none => .incomplete
      | some (cs, rest) => .command (.submit cs) rest
    else if opField h = 3#4 then .command (.encode (argField h)) ops
    else if opField h = 4#4 then
      if argField h = 0#28 then .command .txdone ops else .illegal ops
    else .illegal ops

/-- R61: a header word from its two fields. -/
def headerWord (op : BitVec 4) (arg : BitVec 28) : Word := op ++ arg

/-- R63: a colour as a word, with zeros in the ignored bits (log entry 12). -/
def colourWord (c : Colour) : Word := 0#8 ++ c.r ++ c.g ++ c.b

/-- The words of a command (R62 to R65). -/
def encode : Instr → List Word
  | .config t0h t0l t1h t1l trst => [headerWord 1#4 0#28, t0h, t0l, t1h, t1l, trst]
  | .submit cs => headerWord 2#4 (BitVec.ofNat 28 cs.length) :: cs.map colourWord
  | .encode space => [headerWord 3#4 space]
  | .txdone => [headerWord 4#4 0#28]

/-- R71: how many operand words the header alone announces. -/
def operandWords (h : Word) : Nat :=
  if opField h = 1#4 ∧ argField h = 0#28 then 5
  else if opField h = 2#4 then (argField h).toNat
  else 0

/-- The first `k` 32-bit words of a table word, the lowest first. -/
def splitWords : Nat → Nat → List Word
  | 0, _ => []
  | k + 1, w => BitVec.ofNat 32 w :: splitWords k (w / 2 ^ 32)

/-- The words of the instruction a table word stands for: the words of `w` itself (at least the header), then zero
words up to the number the header announces (log entry 13). -/
def tableWords (nbits w : Nat) : List Word :=
  splitWords (max 1 ((nbits + 31) / 32)) w ++
    List.replicate (1 + operandWords (BitVec.ofNat 32 w) - max 1 ((nbits + 31) / 32)) 0#32

/-- The instruction the decoder reads from a table word of `nbits` bits. -/
def decodeTableWord (nbits w : Nat) : Option Instr :=
  match decode (tableWords nbits w) with
  | .command i _ => some i
  | .illegal _ => none
  | .incomplete => none

end Sys2Proof
end

