-- ==== Sys2Proof/Machine/Operands.lean ====
section
/-! DEFINITION. The forms in which values enter and leave the block: numeric codes, the symbol word and the response words
(spec 30_encoding.md R66 to R70), the timing operands as register contents, and the draw `alloc_ok` (10_state.md R29). -/

namespace Sys2Proof.Machine

/-- R21: the code of `cfg`; code 3 is never held. -/
def Cfg.code : Cfg → BitVec 2
  | .unconfigured => 0#2
  | .ready => 1#2
  | .failed => 2#2

/-- R24: the code of `st`. -/
def FrameState.code : FrameState → BitVec 2
  | .idle => 0#2
  | .encoding => 1#2
  | .appendingReset => 2#2
  | .done => 3#2

/-- R132: the code of a status. -/
def Status.code : Status → BitVec 4
  | .ok => 0#4
  | .configError => 1#4
  | .allocFail => 2#4
  | .busy => 3#4
  | .notReady => 4#4
  | .noSession => 5#4
  | .sessionComplete => 6#4
  | .spuriousTxDone => 7#4
  | .illegalCommand => 8#4
  | .alreadyConfigured => 9#4

/-- R70: the SYM word of a symbol, `l1 d1 l0 d0` from bit 31 down. -/
def PulseSymbol.word (y : PulseSymbol) : Word :=
  BitVec.ofBool y.l1 ++ y.d1 ++ BitVec.ofBool y.l0 ++ y.d0

/-- R68: `RSP0`, from the status and the three flag bits. -/
def rsp0Word (status : Status) (flagBits : BitVec 3) : Word :=
  status.code ++ 0#25 ++ flagBits

/-- R68: `RSP1`, from the count of symbols pushed. -/
def rsp1Word (n : Nat) : Word := 0#4 ++ BitVec.ofNat 28 n

/-- R86: the registers a CONFIG writes. `ValidConfig` has been checked, so no operand bit is lost (R83 V1, V2). -/
def tableOfOperands (t0h t0l t1h t1l trst : Word) : TimingTable where
  t0h := t0h.setWidth 15
  t0l := t0l.setWidth 15
  t1h := t1h.setWidth 15
  t1l := t1l.setWidth 15
  trst := trst.setWidth 16

/-- R29: the draw of this SUBMIT: the next one supplied, or a free value (log entry 5). -/
def allocOk (s : State) : Bool :=
  match s.allocDraws with
  | [] => Config.freeAllocOk s.drawIndex
  | b :: _ => b

/-- R29, R134: the draw belongs to this SUBMIT alone; the next one draws afresh. -/
def afterDraw (s : State) : State :=
  { s with allocDraws := s.allocDraws.tail, drawIndex := s.drawIndex + 1 }

end Sys2Proof.Machine
end

