-- ==== Sys2Proof/Machine/Ops.lean ====
section
/-! DEFINITION. The shared operations: the Frame Buffer (spec 20_memory.md R41), the symbol stream (R42), responses and
`raise` (30_encoding.md R68, 60_exceptions.md R131), the check of `cfg` the three session commands begin with (R144),
hardware reset (70_reset_and_hazards.md R160) and the reading of CMD (30_encoding.md R60, R71). -/

namespace Sys2Proof.Machine

/-- The byte listed at an address, if one is. -/
def Memory.read : Memory → Nat → Option Byte
  | [], _ => none
  | (k, v) :: m, a => if k = a then some v else Memory.read m a

/-- One byte stored, keeping the addresses strictly rising. -/
def Memory.write : Memory → Nat → Byte → Memory
  | [], a, v => [(a, v)]
  | (k, w) :: m, a, v =>
    if a < k then (a, v) :: (k, w) :: m
    else if a = k then (a, v) :: m
    else (k, w) :: Memory.write m a v

/-- The canonical form: addresses strictly rising. (An unlisted address has no value, so no listed byte can equal it.) -/
abbrev Memory.wf (m : Memory) : Prop := (m.map Prod.fst).Pairwise (· < ·)

/-- R103: `MemWrite(i, 1, b)` for the bytes in order, `i` ascending from `a`. -/
def Memory.writeFrom : Nat → List Byte → Memory → Memory
  | _, [], m => m
  | a, b :: bs, m => Memory.writeFrom (a + 1) bs (Memory.write m a b)

/-- R41 `MemRead(i, 1)`: defined only for `i < L`. -/
def memRead (s : State) (i : Nat) : Option Byte :=
  if i < s.len then Memory.read s.fb i else none

/-- R103: the Frame Buffer takes the wire bytes from index 0 on; what an earlier frame left is discarded with its session
(log entry 4). -/
def loadFrame (wire : List Byte) (s : State) : State :=
  { s with fb := Memory.writeFrom 0 wire [] }

/-- R14, R42 `QPush`: one whole symbol to the driver's queue and to `out`. -/
def qPush (y : PulseSymbol) (s : State) : State :=
  { s with out := s.out ++ [y], chan := s.chan ++ [.sym y.word] }

/-- R68: the response `(status, n, flags)` as it leaves on RSP. -/
def response (status : Status) (n : Nat) (flags : Flags) : Emission :=
  .rsp (rsp0Word status flags.bits) (rsp1Word n)

/-- R68 `return (status, n, flags)`: a response with the flags as the command leaves them (log entry 9). -/
def respond (status : Status) (n : Nat) (s : State) : State :=
  { s with chan := s.chan ++ [response status n s.flags] }

/-- R131 `raise S`, the block's one kind of exception: nothing pushed, nothing changed, `(S, 0, flags)` returned. There is
no return from it (R146). -/
def raise (status : Status) (s : State) : State := respond status 0 s

/-- R144 steps 2 and 3 for SUBMIT, ENCODE and TXDONE. -/
def cfgStatus (s : State) : Option Status :=
  match s.cfg with
  | .failed => some .configError
  | .unconfigured => some .notReady
  | .ready => none

/-- R160: the reset input as sampled before this step; not asserted where no sample is supplied (log entry 6). -/
def resetAsserted (s : State) : Bool := s.resetLine.headD false

/-- The sample has been read. -/
def afterSample (s : State) : State := { s with resetLine := s.resetLine.tail }

/-- R160, R31: every element of the block at its reset value; the timing registers unspecified (log entry 3). What has left
the block, and what stands outside it, stays (log entry 7). -/
def hardwareReset (s : State) : State :=
  { s with
    cfg := .unconfigured
    table := TimingTable.unspecified s.resetIndex
    st := .idle
    flags := Flags.noSession
    len := 0
    fb := []
    pos := 0
    out := []
    resetIndex := s.resetIndex + 1 }

/-- R60, R71: what stands at the front of CMD. -/
def fetch (s : State) : Decoded := decode s.cmd

/-- R71: the whole command has been consumed. -/
def afterFetch (rest : List Word) (s : State) : State := { s with cmd := rest }

end Sys2Proof.Machine
end

