-- ==== Sys2Proof/Machine/Timing.lean ====
section
/-! DEFINITION. The Pulse Timing Table and CONFIG (spec 40_timing_table.md), and what a symbol denotes on the wire. -/

namespace Sys2Proof.Machine

/-- R23 `SYM0`. -/
def TimingTable.sym0 (t : TimingTable) : PulseSymbol := ⟨true, t.t0h, false, t.t0l⟩

/-- R23 `SYM1`. -/
def TimingTable.sym1 (t : TimingTable) : PulseSymbol := ⟨true, t.t1h, false, t.t1l⟩

/-- R23, R85 `SYMR`: the larger part in the first half. Both halves fit 15 bits for `TRST` ≤ 65534 (log entry 10). -/
def TimingTable.symR (t : TimingTable) : PulseSymbol :=
  ⟨false, BitVec.ofNat 15 (t.trst.toNat - t.trst.toNat / 2), false, BitVec.ofNat 15 (t.trst.toNat / 2)⟩

/-- R84: the absolute difference of two naturals. -/
def absDiff (a b : Nat) : Nat := if a ≤ b then b - a else a - b

/-- R84 `InTol(p)`: multiplied through by `TICK_HZ`, both ends allowed. -/
def inTol (c : Config.Params) (p : Nat) : Bool :=
  decide (absDiff (p * 1000000000) (c.periodNomNs * c.tickHz) ≤ c.tolNs * c.tickHz)

/-- R83 V1 for one half-period. -/
def halfPeriodValid (d : Nat) : Bool := decide (1 ≤ d) && decide (d ≤ Config.durMax)

/-- R83 `ValidConfig`: V1, V2, V3 and V4, over naturals, so that nothing is truncated before the check (R86 d, e). -/
def validConfig (c : Config.Params) (t0h t0l t1h t1l trst : Nat) : Bool :=
  (halfPeriodValid t0h && halfPeriodValid t0l && halfPeriodValid t1h && halfPeriodValid t1l) &&
  (decide (2 ≤ trst) && decide (trst ≤ 2 * Config.durMax)) &&
  (inTol c (t0h + t0l) && inTol c (t1h + t1l)) &&
  !(decide (t0h = t1h) && decide (t0l = t1l))

/-- I8 of R30: the registers hold a valid configuration. -/
def TimingTable.valid (c : Config.Params) (t : TimingTable) : Bool :=
  validConfig c t.t0h.toNat t.t0l.toNat t.t1h.toNat t.t1l.toNat t.trst.toNat

/-- R86 CONFIG. -/
def execConfig (t0h t0l t1h t1l trst : Word) (s : State) : Host.Outcome State Fault Refusal :=
  match s.cfg with
  | .failed => .next (raise .configError s)
  | .ready => .next (raise .alreadyConfigured s)
  | .unconfigured =>
    if validConfig s.params t0h.toNat t0l.toNat t1h.toNat t1l.toNat trst.toNat then
      .next (respond .ok 0 { s with table := tableOfOperands t0h t0l t1h t1l trst, cfg := .ready })
    else
      .next (raise .configError { s with cfg := .failed })

/-- R88 `Wave` of one symbol: one level for each tick. -/
def PulseSymbol.wave (y : PulseSymbol) : List Bool :=
  List.replicate y.d0.toNat y.l0 ++ List.replicate y.d1.toNat y.l1

/-- R88 `Wave` of a sequence. -/
def waveOf (ys : List PulseSymbol) : List Bool := ys.flatMap PulseSymbol.wave

/-- R89: how many ticks a symbol lasts. -/
def PulseSymbol.ticks (y : PulseSymbol) : Nat := y.d0.toNat + y.d1.toNat

end Sys2Proof.Machine
end

