-- ==== Sys2Proof/Machine/Translator.lean ====
section
/-! DEFINITION. The Byte-to-Pulse Translator, the channel reordering and the symbol sequence of a frame (spec
41_byte_translator.md). All are pure functions of the table and the bytes (R92). -/

namespace Sys2Proof.Machine

/-- R90 `BitSym(b, k)`: the template of bit 7 - k. -/
def bitSym (t : TimingTable) (b : Byte) (k : Nat) : PulseSymbol :=
  if b.getLsbD (7 - k) then t.sym1 else t.sym0

/-- R91 `EncodeByte(b)`: most significant bit first. -/
def encodeByte (t : TimingTable) (b : Byte) : List PulseSymbol :=
  [bitSym t b 0, bitSym t b 1, bitSym t b 2, bitSym t b 3, bitSym t b 4, bitSym t b 5, bitSym t b 6, bitSym t b 7]

/-- R94: one LED in wire order, green, red, blue. -/
def Colour.wire (c : Colour) : List Byte := [c.g, c.r, c.b]

/-- R94 `WireBytes`. -/
def wireBytes (colours : List Colour) : List Byte := colours.flatMap Colour.wire

/-- R95 `FrameSyms`, of the bytes of a Frame Buffer. -/
def frameSyms (t : TimingTable) (bytes : List Byte) : List PulseSymbol :=
  bytes.flatMap (encodeByte t) ++ [t.symR]

/-- R96 `FrameSym(fb, p)`: one byte read and nothing besides p. It has no value past 8 × L. -/
def frameSym (s : State) (p : Nat) : Option PulseSymbol :=
  if p < 8 * s.len then (memRead s (p / 8)).map fun b => bitSym s.table b (p % 8)
  else if p = 8 * s.len then some s.table.symR
  else none

/-- The bytes of the Frame Buffer in index order (R26); in a state that meets the invariant they are `fb[0] .. fb[L-1]`. -/
def frameBytes (s : State) : List Byte := s.fb.map Prod.snd

end Sys2Proof.Machine
end

