-- ==== Sys2Proof/Machine/Frame.lean ====
section
/-! DEFINITION. The Frame Encoder: SUBMIT and ENCODE (spec 42_frame_encoder.md R103, R104). -/

namespace Sys2Proof.Machine

/-- R103: what an accepted SUBMIT leaves. A finished session, if any, is discarded here. -/
def startSession (colours : List Colour) (s : State) : State :=
  { loadFrame (wireBytes colours) s with
    len := 3 * colours.length
    pos := 0
    out := []
    flags := Flags.fresh
    st := .encoding }

/-- R103 SUBMIT. The draw is this SUBMIT's whatever its status; it is looked at only when all else passes (R144). -/
def execSubmit (colours : List Colour) (s : State) : Host.Outcome State Fault Refusal :=
  match cfgStatus s with
  | some e => .next (raise e (afterDraw s))
  | none =>
    if s.st = .encoding ∨ s.st = .appendingReset then .next (raise .busy (afterDraw s))
    else if s.params.maxLeds < colours.length ∨ allocOk s = false then .next (raise .allocFail (afterDraw s))
    else .next (respond .ok 0 (startSession colours (afterDraw s)))

/-- R104: `QPush(y)`, `pos <- pos + 1`. -/
def pushNext (y : PulseSymbol) (s : State) : State :=
  { qPush y s with pos := s.pos + 1 }

/-- R104 stage 1, the loop `while n < space and pos < 8 × L`: `room` is `space - n`, `n` the count so far. Nothing results
where the Frame Buffer has no byte. -/
def pushBits : Nat → Nat → State → Option (Nat × State)
  | 0, n, s => some (n, s)
  | room + 1, n, s =>
    if s.pos < 8 * s.len then
      match frameSym s s.pos with
      | none => none
      | some y => pushBits room (n + 1) (pushNext y s)
    else some (n, s)

/-- R104: `if pos = 8 × L: st <- AppendingReset`. -/
def bytesDone (s : State) : State :=
  if s.pos = 8 * s.len then { s with st := .appendingReset } else s

/-- R104 stage 1: bit-level encoding. -/
def stage1 (space : Nat) (s : State) : Option (Nat × State) :=
  if s.st = .encoding then (pushBits space 0 s).map fun r => (r.1, bytesDone r.2)
  else some (0, s)

/-- R104 stage 2: the reset symbol, if there is room for it. -/
def stage2 (space : Nat) (r : Nat × State) : Nat × State :=
  if r.2.st = .appendingReset ∧ r.1 < space then
    (r.1 + 1, { pushNext r.2.table.symR r.2 with st := .done, flags := r.2.flags.setComplete })
  else r

/-- R104 flow control: `memory_full`. -/
def flowControl (space n : Nat) (s : State) : State :=
  if s.st ≠ .done then { s with flags := s.flags.setMemoryFull }
  else if s.params.exactFitSetsMemFull = true ∧ n = space then { s with flags := s.flags.setMemoryFull }
  else s

/-- R104: the flags an accepted invocation starts from. -/
def beginInvocation (s : State) : State := { s with flags := s.flags.beginInvocation }

/-- R104: the end of an accepted invocation: flow control, then the response. -/
def endInvocation (space : Nat) (r : Nat × State) : State :=
  respond .ok r.1 (flowControl space r.1 r.2)

/-- R104 from the first assignment on: one accepted invocation. -/
def invocation (space : Nat) (s : State) : Host.Outcome State Fault Refusal :=
  match stage1 space (beginInvocation s) with
  | none => .fault .frameByteAbsent
  | some r => .next (endInvocation space (stage2 space r))

/-- R104 ENCODE. -/
def execEncode (space : BitVec 28) (s : State) : Host.Outcome State Fault Refusal :=
  match cfgStatus s with
  | some e => .next (raise e s)
  | none =>
    match s.st with
    | .idle => .next (raise .noSession s)
    | .done => .next (raise .sessionComplete s)
    | .encoding => invocation space.toNat s
    | .appendingReset => invocation space.toNat s

end Sys2Proof.Machine
end

