-- ==== Sys2Proof/Machine/Driver.lean ====
section
/-! DEFINITION. TXDONE (spec 43_channel_driver.md R123) and the pseudo-instructions of 30_encoding.md R73. -/

namespace Sys2Proof.Machine

/-- R123: the session is discarded; `fb` becomes unspecified, so no byte of it is listed any more (log entry 4), and `out`
stays as a history. -/
def endSession (s : State) : State :=
  { s with st := .idle, flags := Flags.noSession, len := 0, pos := 0, fb := [] }

/-- R123 TXDONE. -/
def execTxdone (s : State) : Host.Outcome State Fault Refusal :=
  match cfgStatus s with
  | some e => .next (raise e s)
  | none =>
    if s.st ≠ .done then .next (raise .spuriousTxDone s)
    else .next (respond .ok 0 (endSession s))

/-- ENCODE commands one after another (R108: an interrupted frame). -/
def runEncodes : List (BitVec 28) → State → Host.Outcome State Fault Refusal
  | [], s => .next s
  | space :: rest, s =>
    match execEncode space s with
    | .next t => runEncodes rest t
    | .fault f => .fault f
    | .refused r => .refused r

/-- R73 `DRAIN s`: ENCODE repeated until a response has `complete` = 1. `fuel` bounds the repetitions (log entry 15). -/
def drain (space : BitVec 28) : Nat → State → Host.Outcome State Fault Refusal
  | 0, s => .next s
  | fuel + 1, s =>
    match execEncode space s with
    | .next t => if t.flags.complete then .next t else drain space fuel t
    | .fault f => .fault f
    | .refused r => .refused r

/-- R73 `FRAME s, colours`: SUBMIT, DRAIN, TXDONE: one whole refresh. -/
def runFrame (space : BitVec 28) (colours : List Colour) (fuel : Nat) (s : State) : Host.Outcome State Fault Refusal :=
  match execSubmit colours s with
  | .fault f => .fault f
  | .refused r => .refused r
  | .next t =>
    match drain space fuel t with
    | .fault f => .fault f
    | .refused r => .refused r
    | .next u => execTxdone u

/-- R73: the three pseudo-instructions that are other names of one command. -/
inductive Pseudo where
  | newEncoder (t0h t0l t1h t1l trst : Word)
  | setLedColors (colours : List Colour)
  | encodeFrame (space : BitVec 28)
  deriving DecidableEq, Repr

/-- R73: the command a pseudo-instruction expands to. -/
def Pseudo.expand : Pseudo → Instr
  | .newEncoder t0h t0l t1h t1l trst => .config t0h t0l t1h t1l trst
  | .setLedColors colours => .submit colours
  | .encodeFrame space => .encode space

end Sys2Proof.Machine
end

