-- ==== Sys2Proof/Machine/Dispatch.lean ====
section
/-! DEFINITION. The arm of each command (spec 30_encoding.md R61). -/

namespace Sys2Proof.Machine

def exec (i : Instr) (s : State) : Host.Outcome State Fault Refusal :=
  match i with
  | .config t0h t0l t1h t1l trst => Sys2Proof.Machine.execConfig t0h t0l t1h t1l trst s
  | .submit colours => Sys2Proof.Machine.execSubmit colours s
  | .encode space => Sys2Proof.Machine.execEncode space s
  | .txdone => Sys2Proof.Machine.execTxdone s

end Sys2Proof.Machine
end

