-- ==== Sys2Proof/Machine/Step.lean ====
section
/-! DEFINITION. One step of the block: hardware reset (spec 70_reset_and_hazards.md R160), or one whole command from CMD
(20_memory.md R49, R47), or rest (60_exceptions.md R152); and how a word comes to stand where the next command is read. -/

namespace Sys2Proof.Machine

/-- One step. An illegal header is answered IllegalCommand whatever the state (R140, R144 step 1). Where no whole command
has come the block is at rest (R152, R161; log entry 2). -/
def step (s : State) : Host.Outcome State Fault Refusal :=
  if resetAsserted s then .next (hardwareReset (afterSample s))
  else
    match fetch s with
    | .incomplete => .next (afterSample s)
    | .illegal rest => .next (raise .illegalCommand (afterFetch rest (afterSample s)))
    | .command i rest => exec i (afterFetch rest (afterSample s))

/-- The words of a table word at the front of CMD, and no reset asserted before them, so that the very next step runs
that command (log entry 13). -/
def State.withFetchWord (s : State) (nbits w : Nat) : State :=
  { s with cmd := tableWords nbits w ++ s.cmd, resetLine := false :: s.resetLine }

/-- The outside world puts words on CMD (R60). -/
def State.send (ws : List Word) (s : State) : State := { s with cmd := s.cmd ++ ws }

end Sys2Proof.Machine
end

