-- ==== Sys2Proof/Safety.lean ====
section
/-! DEFINITION. The invariant of the block (spec 10_state.md R30, with the ranges of R20 and the flag values of R69), and
the words the statements use. -/

namespace Sys2Proof.Machine

/-- The symbol words that have left on SYM (R60), oldest first. -/
def symWords (s : State) : List Word :=
  s.chan.filterMap fun e =>
    match e with
    | .sym w => some w
    | .rsp _ _ => none

/-- The symbol sequence of the frame the block holds (R95). -/
def theFrame (s : State) : List PulseSymbol := frameSyms s.table (frameBytes s)

/-- The invariant. I1 to I8 are R30's. -/
structure State.Inv (s : State) : Prop where
  /-- R6, R8, R10. -/
  params : s.params.wf = true
  i1 : s.cfg ≠ .ready → s.st = .idle
  i2 : s.st = .idle → s.flags = Flags.noSession ∧ s.len = 0 ∧ s.pos = 0
  i3 : s.st = .encoding → s.pos < 8 * s.len ∨ (s.pos = 0 ∧ s.len = 0 ∧ s.flags.reset = true)
  i4 : s.st = .appendingReset → s.pos = 8 * s.len ∧ s.flags = ⟨false, true, false⟩
  i5 : (s.st = .done ↔ s.flags.complete = true) ∧ (s.st = .done → s.pos = 8 * s.len + 1)
  i6 : s.flags.reset = true → s.st = .encoding ∧ s.pos = 0 ∧ s.out = [] ∧ s.flags = Flags.fresh
  i7 : s.st ≠ .idle → s.out = (theFrame s).take s.pos
  i8 : s.cfg = .ready → s.table.valid s.params = true
  /-- R69: the values the flags can hold in a session. -/
  encodingFlags : s.st = .encoding → s.flags = Flags.fresh ∨ s.flags = ⟨false, true, false⟩
  /-- R69, R106: both bits only where the parameter says so. -/
  doneFlags : s.st = .done → s.flags = ⟨true, false, false⟩ ∨
    (s.flags = ⟨true, true, false⟩ ∧ s.params.exactFitSetsMemFull = true)
  /-- R26, R40: the Frame Buffer is the bytes 0 .. L-1, in canonical form. -/
  buffer : s.fb.map Prod.fst = List.range s.len
  /-- R20, R46: whole LEDs, at most MAX_LEDS of them. -/
  length : ∃ leds, s.len = 3 * leds ∧ leds ≤ s.params.maxLeds
  /-- R42, R60: what SYM carried last is `out`. -/
  stream : s.out.map PulseSymbol.word <:+ symWords s

/-- A frame is in flight (R101): a session that is not yet Done. -/
abbrev State.inFlight (s : State) : Prop := s.st = .encoding ∨ s.st = .appendingReset

/-- R144 steps 2 to 5: the first status that applies to a command in a state. (Step 1, IllegalCommand, is the decoder's.) -/
def firstStatus (i : Instr) (s : State) : Status :=
  if s.cfg = .failed then .configError
  else
    match i with
    | .config t0h t0l t1h t1l trst =>
      if s.cfg = .ready then .alreadyConfigured
      else if validConfig s.params t0h.toNat t0l.toNat t1h.toNat t1l.toNat trst.toNat then .ok
      else .configError
    | .submit colours =>
      if s.cfg = .unconfigured then .notReady
      else if s.inFlight then .busy
      else if s.params.maxLeds < colours.length ∨ allocOk s = false then .allocFail
      else .ok
    | .encode _ =>
      if s.cfg = .unconfigured then .notReady
      else if s.st = .idle then .noSession
      else if s.st = .done then .sessionComplete
      else .ok
    | .txdone =>
      if s.cfg = .unconfigured then .notReady
      else if s.st ≠ .done then .spuriousTxDone
      else .ok

/-- R177 (1): for the block the frame is over. -/
abbrev State.frameOver (s : State) : Prop := s.st = .done

/-- 8 × L + 1: the number of symbols of the frame (R95). -/
def frameLength (s : State) : Nat := 8 * s.len + 1

end Sys2Proof.Machine
end

