-- ==== Sys2Proof/Certificates/Slice0/Obligations.lean ====
section
/-! DEFINITION. The statements for the provers. Each cites the rule of spec/ it formalises; the parameters of the
implementation are a field of the state, so every statement holds for all their values. -/

open Sys2Proof Sys2Proof.Machine

/-! ### Encoding -/

/-- R61 to R66: the words of a command, whatever follows them on CMD, are read back as that command and all of them are
consumed. -/
def Obligations.DecodeEncodeRoundTrip : Prop :=
  ∀ (i : Instr) (rest : List Word), i.wf = true → decode (encode i ++ rest) = .command i rest

/-- R63, R67, R71: whatever is read as a command is well formed, and the words consumed are the words of that command but
for bits 31:24 of the colour words of a SUBMIT. So a word has one meaning. -/
def Obligations.DecodedWordsAreTheCommand : Prop :=
  ∀ (ws rest : List Word) (i : Instr), decode ws = .command i rest →
    i.wf = true ∧
    ∃ h ops, ws = h :: ops ++ rest ∧ ops.length = operandWords h ∧
      encode i = h :: (match i with
        | .submit _ => ops.map fun w => w &&& 0x00FFFFFF#32
        | _ => ops)

/-- R67, R140: exactly the headers R67 lists are illegal. Such a header is answered IllegalCommand in every state, that one
word is consumed, and nothing else of the block changes; that the step also reads one sample of the reset input is the
model's choice, log entry 6. Bits 31:24 of a colour word make no difference. -/
def Obligations.IllegalHeaderRefused : Prop :=
  (∀ (h : Word) (ops rest : List Word), decode (h :: ops) = .illegal rest ↔
    rest = ops ∧ (h.toNat / 2 ^ 28 = 0 ∨ 5 ≤ h.toNat / 2 ^ 28 ∨
      ((h.toNat / 2 ^ 28 = 1 ∨ h.toNat / 2 ^ 28 = 4) ∧ h.toNat % 2 ^ 28 ≠ 0))) ∧
  (∀ (s : State) (rest : List Word), resetAsserted s = false → decode s.cmd = .illegal rest →
    step s = .next { s with
      cmd := rest, resetLine := s.resetLine.tail, chan := s.chan ++ [response .illegalCommand 0 s.flags] }) ∧
  (∀ v w : Word, v.toNat % 2 ^ 24 = w.toNat % 2 ^ 24 → colourOfWord v = colourOfWord w)

/-- A few words written out from R61 to R66. -/
def Obligations.SampleWordsDecode : Prop :=
  decode [0x10000000#32, 4#32, 8#32, 8#32, 4#32, 0x1F4#32] = .command (.config 4#32 8#32 8#32 4#32 500#32) [] ∧
  decode [0x20000001#32, 0xAB0A141E#32] = .command (.submit [⟨10#8, 20#8, 30#8⟩]) [] ∧
  decode [0x30000040#32, 0x40000000#32] = .command (.encode 64#28) [0x40000000#32] ∧
  decode [0x40000000#32] = .command .txdone [] ∧
  decode [0x20000002#32, 0#32] = .incomplete

/-- R70: the symbol word as a number, the three words of the example configuration, and no zero duration in any symbol the
block has emitted. -/
def Obligations.SymbolWordLayout : Prop :=
  (∀ y : PulseSymbol,
    y.word.toNat = y.l1.toNat * 2 ^ 31 + y.d1.toNat * 2 ^ 16 + y.l0.toNat * 2 ^ 15 + y.d0.toNat) ∧
  (∀ t : TimingTable, t = ⟨4#15, 8#15, 8#15, 4#15, 500#16⟩ →
    t.sym0.word = 0x00088004#32 ∧ t.sym1.word = 0x00048008#32 ∧ t.symR.word = 0x00FA00FA#32) ∧
  (∀ (s t : State), s.Inv → step s = .next t → ∀ y ∈ t.out,
    y ∈ s.out ∨ (0 < y.d0.toNat ∧ y.d0.toNat ≤ 32767 ∧ 0 < y.d1.toNat ∧ y.d1.toNat ≤ 32767))

/-- R68: the two response words as numbers: status, then 25 zero bits, then the flags; and the count in 28 bits. -/
def Obligations.ResponseWordLayout : Prop :=
  (∀ (e : Status) (f : Flags), (rsp0Word e f.bits).toNat =
    e.code.toNat * 2 ^ 28 + f.reset.toNat * 4 + f.memoryFull.toNat * 2 + f.complete.toNat) ∧
  (∀ n : Nat, n < 2 ^ 28 → (rsp1Word n).toNat = n) ∧
  (∀ e : Status, e.code = 0#4 ↔ e = .ok)

/-- R60, R68: every command answers exactly one response, after all the symbols it pushed; the response carries the flags
as the command leaves them and the count of those symbols; only an accepted ENCODE pushes any. -/
def Obligations.EveryCommandAnswersOnce : Prop :=
  ∀ (s t : State) (i : Instr), exec i s = .next t →
    ∃ (ys : List PulseSymbol) (e : Status),
      t.chan = s.chan ++ (ys.map fun y => Emission.sym y.word) ++ [response e ys.length t.flags] ∧
      ys.length < 2 ^ 28 ∧
      (ys ≠ [] → e = .ok ∧ (∃ space, i = .encode space) ∧ t.out = s.out ++ ys)

/-! ### The Pulse Timing Table and CONFIG -/

/-- R84: `InTol` is the integer inequality, and with the reference values it holds for 11, 12 and 13 ticks alone. -/
def Obligations.ToleranceCheckMeaning : Prop :=
  (∀ (c : Config.Params) (p : Nat), inTol c p = true ↔
    |(p : Int) * 1000000000 - (c.periodNomNs : Int) * c.tickHz| ≤ (c.tolNs : Int) * c.tickHz) ∧
  (∀ (c : Config.Params) (p : Nat), c.tickHz = 10000000 → c.periodNomNs = 1200 → c.tolNs = 150 →
    (inTol c p = true ↔ p = 11 ∨ p = 12 ∨ p = 13))

/-- R83: `ValidConfig` is V1, V2, V3 and V4 together. -/
def Obligations.ValidConfigMeaning : Prop :=
  ∀ (c : Config.Params) (t0h t0l t1h t1l trst : Nat),
    validConfig c t0h t0l t1h t1l trst = true ↔
      ((1 ≤ t0h ∧ t0h ≤ 32767) ∧ (1 ≤ t0l ∧ t0l ≤ 32767) ∧ (1 ≤ t1h ∧ t1h ≤ 32767) ∧ (1 ≤ t1l ∧ t1l ≤ 32767)) ∧
      (2 ≤ trst ∧ trst ≤ 65534) ∧
      (inTol c (t0h + t0l) = true ∧ inTol c (t1h + t1l) = true) ∧
      (t0h, t0l) ≠ (t1h, t1l)

/-- R86: CONFIG in every `cfg`, with its whole effect and its frame: a table register holds its operand unchanged; nothing
but `cfg`, the table and the response channel changes, and the table only when the command succeeds. After a failed CONFIG
every command is answered ConfigError. The flags a successful CONFIG answers are the register (R68), where R86 writes 000:
that reading is the model's (DEDUCED), log entry 9. The two agree in every state that meets the invariant, the last
clause. -/
def Obligations.ConfigCommandEffect : Prop :=
  ∀ (s : State) (t0h t0l t1h t1l trst : Word),
    (s.cfg = .failed → exec (.config t0h t0l t1h t1l trst) s =
      .next { s with chan := s.chan ++ [response .configError 0 s.flags] }) ∧
    (s.cfg = .ready → exec (.config t0h t0l t1h t1l trst) s =
      .next { s with chan := s.chan ++ [response .alreadyConfigured 0 s.flags] }) ∧
    (s.cfg = .unconfigured → validConfig s.params t0h.toNat t0l.toNat t1h.toNat t1l.toNat trst.toNat = false →
      exec (.config t0h t0l t1h t1l trst) s =
        .next { s with cfg := .failed, chan := s.chan ++ [response .configError 0 s.flags] } ∧
      ∀ (i : Instr) (u : State), u.cfg = .failed → ∃ v, exec i u = .next v ∧ v.cfg = .failed ∧
        v.chan = u.chan ++ [response .configError 0 u.flags]) ∧
    (s.cfg = .unconfigured → validConfig s.params t0h.toNat t0l.toNat t1h.toNat t1l.toNat trst.toNat = true →
      ∃ t, exec (.config t0h t0l t1h t1l trst) s = .next t ∧
        t.table.t0h.toNat = t0h.toNat ∧ t.table.t0l.toNat = t0l.toNat ∧ t.table.t1h.toNat = t1h.toNat ∧
        t.table.t1l.toNat = t1l.toNat ∧ t.table.trst.toNat = trst.toNat ∧
        t = { s with cfg := .ready, table := t.table, chan := s.chan ++ [response .ok 0 s.flags] }) ∧
    (s.Inv → s.cfg ≠ .ready → s.flags = ⟨false, false, false⟩)

/-- R85, R23: the two halves of the reset symbol: low, the larger part first, together `TRST`, each within 1 .. 32767. -/
def Obligations.ResetSymbolSplit : Prop :=
  ∀ t : TimingTable, 2 ≤ t.trst.toNat → t.trst.toNat ≤ 65534 →
    t.symR.l0 = false ∧ t.symR.l1 = false ∧
    t.symR.d1.toNat = t.trst.toNat / 2 ∧ t.symR.d0.toNat = t.trst.toNat - t.trst.toNat / 2 ∧
    t.symR.d0.toNat + t.symR.d1.toNat = t.trst.toNat ∧
    t.symR.d1.toNat ≤ t.symR.d0.toNat ∧ t.symR.d0.toNat ≤ t.symR.d1.toNat + 1 ∧
    1 ≤ t.symR.d1.toNat ∧ t.symR.d0.toNat ≤ 32767

/-- R87: once `cfg` is Ready, no step but hardware reset changes the table or `cfg`, and every symbol a step adds to `out`
is one of the same three templates; so two finished frames with the same bytes are the same symbols. -/
def Obligations.TimingTableImmutable : Prop :=
  (∀ (s t : State), s.cfg = .ready → resetAsserted s = false → step s = .next t →
    t.table = s.table ∧ t.cfg = .ready ∧
    ∀ y ∈ t.out, y ∈ s.out ∨ y = s.table.sym0 ∨ y = s.table.sym1 ∨ y = s.table.symR) ∧
  (∀ s t : State, s.Inv → t.Inv → s.st = .done → t.st = .done → s.table = t.table → s.len = t.len →
    (∀ a, memRead s a = memRead t a) → s.out = t.out)

/-- R21: how `cfg` moves. -/
def Obligations.ConfigStateMoves : Prop :=
  ∀ (s t : State), step s = .next t → t.cfg ≠ s.cfg →
    (resetAsserted s = true ∧ t.cfg = .unconfigured) ∨
    (resetAsserted s = false ∧ s.cfg = .unconfigured ∧ (t.cfg = .ready ∨ t.cfg = .failed) ∧
      ∃ t0h t0l t1h t1l trst rest, decode s.cmd = .command (.config t0h t0l t1h t1l trst) rest)

/-- R163, R133: a CONFIG that answers ConfigError leaves Failed; in Failed every command answers ConfigError; and however
many steps follow, without a hardware reset, the block stays in Failed and pushes no symbol. -/
def Obligations.FailedIsFinal : Prop :=
  (∀ (t0h t0l t1h t1l trst : Word) (s t : State), exec (.config t0h t0l t1h t1l trst) s = .next t →
    t.chan.getLast? = some (response .configError 0 t.flags) → t.cfg = .failed) ∧
  (∀ (i : Instr) (s : State), s.cfg = .failed → ∃ t, exec i s = .next t ∧
    t.cfg = .failed ∧ t.chan = s.chan ++ [response .configError 0 s.flags]) ∧
  (∀ (k : Nat) (s : State), s.cfg = .failed → (∀ b ∈ s.resetLine, b = false) →
    ∃ t, Sys2Proof.core.run k s = .next t ∧ t.cfg = .failed ∧ t.out = s.out ∧ symWords t = symWords s)

/-! ### The translator -/

/-- R90, R91: eight symbols for every byte, the k-th chosen by bit 7 - k. -/
def Obligations.ByteToSymbols : Prop :=
  ∀ (t : TimingTable) (b : Byte), (encodeByte t b).length = 8 ∧
    ∀ k, k < 8 → (encodeByte t b)[k]? =
      some (if b.toNat / 2 ^ (7 - k) % 2 = 1 then t.sym1 else t.sym0)

/-- R93: where the two bit templates differ, reading the symbols gives the byte's bits from bit 7 down, so the translator
is injective; and they differ in every valid configuration. -/
def Obligations.ByteReconstruction : Prop :=
  (∀ (t : TimingTable), t.sym0 ≠ t.sym1 →
    (∀ b : Byte, (encodeByte t b).map (fun y => decide (y = t.sym1)) = (List.range 8).map fun k => b.getLsbD (7 - k)) ∧
    (∀ b c : Byte, encodeByte t b = encodeByte t c → b = c)) ∧
  (∀ (c : Config.Params) (t : TimingTable), t.valid c = true → t.sym0 ≠ t.sym1)

/-- R94: three bytes for each colour, LED i at 3i, green, red, blue, values unchanged. -/
def Obligations.WireByteOrder : Prop :=
  ∀ cs : List Colour, (wireBytes cs).length = 3 * cs.length ∧
    ∀ i, (wireBytes cs)[3 * i]? = (cs[i]?).map Colour.g ∧
      (wireBytes cs)[3 * i + 1]? = (cs[i]?).map Colour.r ∧
      (wireBytes cs)[3 * i + 2]? = (cs[i]?).map Colour.b

/-- R95: 8 × L + 1 symbols, the last the reset symbol, and no other equal to it. -/
def Obligations.FrameSymbolSequence : Prop :=
  ∀ (t : TimingTable) (bs : List Byte),
    (frameSyms t bs).length = 8 * bs.length + 1 ∧
    (∀ p, (frameSyms t bs)[p]? = some t.symR ↔ p = 8 * bs.length) ∧
    (∀ j k, k < 8 → j < bs.length → (frameSyms t bs)[8 * j + k]? = (bs[j]?).bind fun b => (encodeByte t b)[k]?)

/-- R96: the symbol at the cursor is the frame's symbol there, for every position of the frame. -/
def Obligations.CursorSymbol : Prop :=
  ∀ (s : State), s.Inv → ∀ p, p ≤ 8 * s.len →
    frameSym s p = (theFrame s)[p]? ∧
    (p < 8 * s.len → ∃ b, memRead s (p / 8) = some b ∧ frameSym s p = some (bitSym s.table b (p % 8))) ∧
    (p = 8 * s.len → frameSym s p = some s.table.symR)

/-- R88, R89: the waveform of a frame lasts as many ticks as R89 says. -/
def Obligations.FrameDuration : Prop :=
  ∀ (t : TimingTable) (bs : List Byte) (z : Nat), t.trst.toNat ≤ 65534 →
    z = (bs.flatMap fun b => (List.range 8).map fun k => b.getLsbD (7 - k)).count false →
    t.sym0.ticks = t.t0h.toNat + t.t0l.toNat ∧ t.sym1.ticks = t.t1h.toNat + t.t1l.toNat ∧
    t.symR.ticks = t.trst.toNat ∧
    (waveOf (frameSyms t bs)).length = z * t.sym0.ticks + (8 * bs.length - z) * t.sym1.ticks + t.trst.toNat

/-! ### SUBMIT -/

/-- R103: SUBMIT in every state, its checks in their order and its whole effect. An accepted SUBMIT leaves exactly the wire
bytes in the Frame Buffer (every other index reads as nothing); a refused one changes nothing but the response channel. What
becomes of the draws is `EachSubmitTakesOneDraw`. -/
def Obligations.SubmitCommandEffect : Prop :=
  ∀ (s : State) (cs : List Colour), ∃ t, exec (.submit cs) s = .next t ∧
    (s.cfg = .failed → t = { s with
      allocDraws := t.allocDraws, drawIndex := t.drawIndex, chan := s.chan ++ [response .configError 0 s.flags] }) ∧
    (s.cfg = .unconfigured → t = { s with
      allocDraws := t.allocDraws, drawIndex := t.drawIndex, chan := s.chan ++ [response .notReady 0 s.flags] }) ∧
    (s.cfg = .ready → s.inFlight → t = { s with
      allocDraws := t.allocDraws, drawIndex := t.drawIndex, chan := s.chan ++ [response .busy 0 s.flags] }) ∧
    (s.cfg = .ready → ¬ s.inFlight → s.params.maxLeds < cs.length ∨ allocOk s = false → t = { s with
      allocDraws := t.allocDraws, drawIndex := t.drawIndex, chan := s.chan ++ [response .allocFail 0 s.flags] }) ∧
    (s.cfg = .ready → ¬ s.inFlight → cs.length ≤ s.params.maxLeds → allocOk s = true →
      (∀ a, memRead t a = (wireBytes cs)[a]?) ∧
      t.fb.map Prod.fst = List.range (3 * cs.length) ∧
      t = { s with
        fb := t.fb, len := 3 * cs.length, pos := 0, out := [], flags := ⟨false, false, true⟩, st := .encoding,
        allocDraws := t.allocDraws, drawIndex := t.drawIndex,
        chan := s.chan ++ [response .ok 0 ⟨false, false, true⟩] })

/-- R29, as the model holds the draws (log entry 5): a SUBMIT takes exactly one, whatever its status, and no other command
takes any. -/
def Obligations.EachSubmitTakesOneDraw : Prop :=
  (∀ (s : State) (cs : List Colour), ∃ t, exec (.submit cs) s = .next t ∧
    t.allocDraws = s.allocDraws.tail ∧ t.drawIndex = s.drawIndex + 1) ∧
  (∀ (s t : State) (i : Instr), (∀ cs, i ≠ .submit cs) → exec i s = .next t →
    t.allocDraws = s.allocDraws ∧ t.drawIndex = s.drawIndex)

/-- R26, R51: from an accepted SUBMIT until the session ends, no command changes a byte of the Frame Buffer or its
length. -/
def Obligations.FrameBufferLatched : Prop :=
  ∀ (s t : State) (i : Instr), s.st ≠ .idle → exec i s = .next t →
    (∀ cs, i = .submit cs → s.inFlight ∨ s.params.maxLeds < cs.length ∨ allocOk s = false) →
    (i = .txdone → s.inFlight) →
    t.len = s.len ∧ t.fb = s.fb ∧ ∀ a, memRead t a = memRead s a

/-! ### ENCODE -/

/-- R105: the closed form of an accepted ENCODE, with its frame: only `pos`, `out`, `st`, `flags` and the channels
change. -/
def Obligations.EncodeClosedForm : Prop :=
  ∀ (s : State) (space : BitVec 28) (n : Nat), s.Inv → s.cfg = .ready → s.inFlight →
    n = min space.toNat (frameLength s - s.pos) →
    ∃ t, exec (.encode space) s = .next t ∧
      t = { s with
        pos := s.pos + n
        out := s.out ++ ((theFrame s).drop s.pos).take n
        st := if s.pos + n < 8 * s.len then .encoding else if s.pos + n = 8 * s.len then .appendingReset else .done
        flags := t.flags
        chan := s.chan ++ (((theFrame s).drop s.pos).take n).map (fun y => Emission.sym y.word) ++
          [response .ok n t.flags] } ∧
      ∀ a, memRead t a = memRead s a

/-- R106: the flags after an accepted ENCODE. -/
def Obligations.EncodeFlags : Prop :=
  ∀ (s : State) (space : BitVec 28) (n : Nat), s.Inv → s.cfg = .ready → s.inFlight →
    n = min space.toNat (frameLength s - s.pos) →
    ∃ t, exec (.encode space) s = .next t ∧
      t.flags.reset = false ∧
      (t.flags.complete = true ↔ s.pos + n = frameLength s) ∧
      (t.flags.memoryFull = true ↔ s.pos + n < frameLength s ∨
        (s.pos + n = frameLength s ∧ s.params.exactFitSetsMemFull = true ∧ n = space.toNat))

/-- R137, R138, with R133 and R136: where ENCODE is refused, and that it then changes nothing but the response channel. -/
def Obligations.EncodeRefused : Prop :=
  ∀ (s : State) (space : BitVec 28),
    (s.cfg = .failed → exec (.encode space) s =
      .next { s with chan := s.chan ++ [response .configError 0 s.flags] }) ∧
    (s.cfg = .unconfigured → exec (.encode space) s =
      .next { s with chan := s.chan ++ [response .notReady 0 s.flags] }) ∧
    (s.cfg = .ready → s.st = .idle → exec (.encode space) s =
      .next { s with chan := s.chan ++ [response .noSession 0 s.flags] }) ∧
    (s.cfg = .ready → s.st = .done → exec (.encode space) s =
      .next { s with chan := s.chan ++ [response .sessionComplete 0 s.flags] })

/-- R47, R126: an ENCODE reads at most `ceil(space / 8) + 1` bytes: what stands elsewhere in the Frame Buffer makes no
difference to it. -/
def Obligations.EncodeReadsBoundedWindow : Prop :=
  ∀ (s t : State) (m : Memory) (space : BitVec 28),
    (∀ a, s.pos / 8 ≤ a → a < s.pos / 8 + (space.toNat + 7) / 8 + 1 → Memory.read m a = Memory.read s.fb a) →
    exec (.encode space) s = .next t →
    exec (.encode space) { s with fb := m } = .next { t with fb := m }

/-- R108: however a frame is split over ENCODEs, what has been pushed depends only on the sum of their arguments, and the
frame is Done exactly when that sum reaches what was left of it. -/
def Obligations.ResumptionSameSymbols : Prop :=
  ∀ (s : State) (spaces : List (BitVec 28)) (total : Nat), s.Inv → s.inFlight →
    total = (spaces.map BitVec.toNat).sum →
    ∃ t, runEncodes spaces s = .next t ∧
      t.out = (theFrame s).take (min (s.pos + total) (frameLength s)) ∧
      t.pos = min (s.pos + total) (frameLength s) ∧
      (t.st = .done ↔ frameLength s ≤ s.pos + total)

/-- R109: a finished frame is all its symbols, 24 × N + 1 of them, the last the reset symbol and no other equal to it. -/
def Obligations.FinishedFrameTotal : Prop :=
  ∀ s : State, s.Inv → s.st = .done →
    s.out = theFrame s ∧
    (∃ leds, s.len = 3 * leds ∧ s.out.length = 24 * leds + 1) ∧
    (∀ p, s.out[p]? = some s.table.symR ↔ p + 1 = s.out.length)

/-- R110: the empty frame. -/
def Obligations.EmptyFrame : Prop :=
  ∀ (s : State) (space : BitVec 28), s.Inv → s.cfg = .ready → ¬ s.inFlight → allocOk s = true →
    ∃ u, exec (.submit []) s = .next u ∧
      (1 ≤ space.toNat → ∃ t, exec (.encode space) u = .next t ∧ t.out = [s.table.symR] ∧ t.st = .done ∧
        t.flags.complete = true ∧
        t.chan = u.chan ++ [Emission.sym s.table.symR.word, response .ok 1 t.flags]) ∧
      (space.toNat = 0 → ∃ t, exec (.encode space) u = .next t ∧ t.out = [] ∧ t.st = .appendingReset ∧
        t.flags = ⟨false, true, false⟩ ∧ t.chan = u.chan ++ [response .ok 0 t.flags])

/-- R111: within a session nothing goes back. -/
def Obligations.MonotoneProgress : Prop :=
  ∀ (s t : State) (i : Instr), s.Inv → exec i s = .next t → s.inFlight ∨ (s.st = .done ∧ t.st = .done) →
    s.pos ≤ t.pos ∧ s.out <+: t.out ∧ s.st.code.toNat ≤ t.st.code.toNat ∧
    (s.flags.complete = true → t.flags.complete = true)

/-- R113: the measure M = 8 × L + 1 - pos: an accepted ENCODE lowers it by min(space, M); M invocations with room for one
symbol each always finish the frame, one with room for M does at once, and invocations without room never do. -/
def Obligations.TerminationMeasure : Prop :=
  ∀ (s : State) (m : Nat), s.Inv → s.inFlight → m = frameLength s - s.pos →
    (∀ space : BitVec 28, ∃ t, exec (.encode space) s = .next t ∧
      frameLength t - t.pos = m - min space.toNat m ∧ (m ≤ space.toNat → t.st = .done)) ∧
    (∀ spaces : List (BitVec 28), (∀ x ∈ spaces, 1 ≤ x.toNat) → m ≤ spaces.length →
      ∃ t, runEncodes spaces s = .next t ∧ t.st = .done) ∧
    (∀ spaces : List (BitVec 28), (∀ x ∈ spaces, x.toNat = 0) →
      ∃ t, runEncodes spaces s = .next t ∧ t.st ≠ .done)

/-- R122: under a fair driver (again and again an ENCODE with room for a symbol) every session reaches Done. -/
def Obligations.FairDriverFinishes : Prop :=
  ∀ (s : State) (spaceAt : Nat → BitVec 28), s.Inv → s.inFlight →
    (∀ n, ∃ k, n ≤ k ∧ 1 ≤ (spaceAt k).toNat) →
    ∃ k t, runEncodes ((List.range k).map spaceAt) s = .next t ∧ t.st = .done ∧ t.out = theFrame s

/-- R73 DRAIN: with room for at least one symbol a time, it finishes the frame within 8 × L + 1 repetitions (the bound is
the model's, log entry 15). -/
def Obligations.DrainFinishesFrame : Prop :=
  ∀ (s : State) (space : BitVec 28) (fuel : Nat), s.Inv → s.inFlight → 1 ≤ space.toNat → frameLength s ≤ fuel →
    ∃ t, drain space fuel s = .next t ∧ t.st = .done ∧ t.flags.complete = true ∧ t.out = theFrame s

/-- R73 FRAME, R103, R109, R123: one whole refresh, from any state in which no frame is in flight: exactly the symbols of the
colours' wire bytes are pushed, the words stand on SYM in that order, and the block is idle again (log entry 15). -/
def Obligations.WholeRefresh : Prop :=
  ∀ (s : State) (cs : List Colour) (space : BitVec 28) (fuel : Nat),
    s.Inv → s.cfg = .ready → ¬ s.inFlight → cs.length ≤ s.params.maxLeds → allocOk s = true →
    1 ≤ space.toNat → 24 * cs.length + 1 ≤ fuel →
    ∃ t, runFrame space cs fuel s = .next t ∧ t.st = .idle ∧
      t.out = frameSyms s.table (wireBytes cs) ∧
      symWords t = symWords s ++ (frameSyms s.table (wireBytes cs)).map PulseSymbol.word

/-! ### TXDONE -/

/-- R123: TXDONE in every state, with its whole effect: an accepted one clears the session (no byte of the Frame Buffer
reads any more) and leaves `out`, the table and `cfg`; a refused one changes nothing but the response channel. -/
def Obligations.TxdoneCommandEffect : Prop :=
  ∀ s : State,
    (s.cfg = .failed → exec .txdone s = .next { s with chan := s.chan ++ [response .configError 0 s.flags] }) ∧
    (s.cfg = .unconfigured → exec .txdone s = .next { s with chan := s.chan ++ [response .notReady 0 s.flags] }) ∧
    (s.cfg = .ready → s.st ≠ .done →
      exec .txdone s = .next { s with chan := s.chan ++ [response .spuriousTxDone 0 s.flags] }) ∧
    (s.cfg = .ready → s.st = .done → ∃ t, exec .txdone s = .next t ∧
      (∀ a, memRead t a = none) ∧
      t = { s with
        st := .idle, flags := ⟨false, false, false⟩, len := 0, pos := 0, fb := t.fb,
        chan := s.chan ++ [response .ok 0 ⟨false, false, false⟩] })

/-! ### The whole machine -/

/-- R144: the status of a command is that of the first condition that applies, in R144's order; a header that is no command
is answered IllegalCommand before any of them. -/
def Obligations.StatusPriority : Prop :=
  (∀ (s t : State) (i : Instr), exec i s = .next t →
    ∃ pushed n, t.chan = s.chan ++ pushed ++ [response (firstStatus i s) n t.flags]) ∧
  (∀ (s t : State) (rest : List Word), resetAsserted s = false → decode s.cmd = .illegal rest → step s = .next t →
    t.chan = s.chan ++ [response .illegalCommand 0 t.flags])

/-- R131: a command whose response carries a status other than OK pushed nothing and changed no element of the block, but for
`cfg` becoming Failed at a failed CONFIG; the response is `(S, 0, flags)` with the unchanged flags. (The draw of a SUBMIT
is an input, consumed whatever the status.) -/
def Obligations.RefusedCommandChangesNothing : Prop :=
  ∀ (s t : State) (i : Instr) (e : Status) (f : Flags) (w : Word), e ≠ .ok → exec i s = .next t →
    t.chan.getLast? = some (.rsp (rsp0Word e f.bits) w) →
    t = { s with
      cfg := t.cfg, allocDraws := t.allocDraws, drawIndex := t.drawIndex,
      chan := s.chan ++ [response e 0 s.flags] } ∧
    (t.cfg = s.cfg ∨
      (s.cfg = .unconfigured ∧ t.cfg = .failed ∧ e = .configError ∧
        ∃ t0h t0l t1h t1l trst, i = .config t0h t0l t1h t1l trst))

/-- R101: every transition of `st` a command makes is one of R101's table, and no other exists. -/
def Obligations.FrameStateTransitions : Prop :=
  ∀ (s t : State) (i : Instr), s.Inv → exec i s = .next t → t.st ≠ s.st →
    (∃ cs, i = .submit cs ∧ ¬ s.inFlight ∧ t.st = .encoding) ∨
    (∃ space, i = .encode space ∧ s.st = .encoding ∧
      ((t.pos = 8 * s.len ∧ t.st = .appendingReset) ∨ (t.pos = 8 * s.len + 1 ∧ t.st = .done))) ∨
    (∃ space : BitVec 28, i = .encode space ∧ 1 ≤ space.toNat ∧ s.st = .appendingReset ∧ t.st = .done) ∨
    (i = .txdone ∧ s.st = .done ∧ t.st = .idle)

/-- R49, R71: where the words at the front of CMD are those of a command, one step is that command in the state with those
words consumed (and the sample of the reset input read, log entry 6). -/
def Obligations.StepRunsDecodedCommand : Prop :=
  ∀ (s : State) (i : Instr) (rest : List Word), resetAsserted s = false → decode s.cmd = .command i rest →
    step s = exec i { s with cmd := rest, resetLine := s.resetLine.tail }

/-- The host's way to place a word is one after which the very next step runs that command and nothing else (log entry
13). -/
def Obligations.PlacedWordRunsNext : Prop :=
  ∀ (s : State) (nbits w : Nat) (i : Instr), nbits ≤ 32 → decodeTableWord nbits w = some i →
    step (s.withFetchWord nbits w) = exec i s

/-- R152, R161: where no whole command has come and no reset is asserted, the block is at rest and its state is held (that
an incomplete command waits is the model's choice, log entry 2; that the step reads one sample of the reset input is
the model's choice, log entry 6). -/
def Obligations.RestHoldsState : Prop :=
  ∀ s : State, resetAsserted s = false → decode s.cmd = .incomplete →
    step s = .next { s with resetLine := s.resetLine.tail }

/-- R31, R160, R161: hardware reset, at any moment: every element at its reset value, no byte of the Frame Buffer readable,
no session. What has left on SYM has left (R160); that what has left on RSP is kept too is the model's choice, log entry 7,
and that the input is sampled once a step is log entry 6. The table is unspecified and nothing is said of it. -/
def Obligations.HardwareResetEffect : Prop :=
  ∀ s : State, resetAsserted s = true → ∃ t, step s = .next t ∧
    t.cfg = .unconfigured ∧ t.st = .idle ∧ t.flags = ⟨false, false, false⟩ ∧ t.len = 0 ∧ t.pos = 0 ∧ t.out = [] ∧
    (∀ a, memRead t a = none) ∧ t.chan = s.chan

/-- R31, R161: the machine right after reset, for any parameters (log entry 1) and any content of the unspecified registers
(log entry 3). -/
def Obligations.ResetStateValues : Prop :=
  (∀ (c : Config.Params) (t : TimingTable) (s : State), s = State.afterReset c t →
    s.cfg = .unconfigured ∧ s.st = .idle ∧ s.flags.bits = 0#3 ∧ s.len = 0 ∧ s.pos = 0 ∧ s.out = [] ∧
    ∀ a, memRead s a = none) ∧
  ∃ (c : Config.Params) (t : TimingTable), State.reset = State.afterReset c t ∧ c.wf = true

/-- R30: the invariant holds right after reset. -/
def Obligations.InvariantAtReset : Prop :=
  State.reset.Inv ∧ ∀ (c : Config.Params) (t : TimingTable), c.wf = true → (State.afterReset c t).Inv

/-- R30: every step, whatever its outcome, keeps the invariant. -/
def Obligations.StepKeepsInvariant : Prop :=
  ∀ (s t : State), s.Inv → step s = .next t → t.Inv

/-- R16, R130: no trap and no hang: in a state that meets the invariant every step, and so every run, goes on. -/
def Obligations.NoStepStops : Prop :=
  (∀ (s : State) (i : Instr), s.Inv → ∃ t, exec i s = .next t) ∧
  (∀ (k : Nat) (s : State), s.Inv → ∃ t, Sys2Proof.core.run k s = .next t ∧ t.Inv)

/-- R40, R41: every step keeps the Frame Buffer in the model's canonical form (log entry 4), from every state. -/
def Obligations.BufferStaysCanonical : Prop :=
  ∀ (s t : State), Memory.wf s.fb → step s = .next t → Memory.wf t.fb

/-- R6 to R11: the parameters are fixed: no step changes one. -/
def Obligations.ParametersFixed : Prop :=
  ∀ (s t : State), step s = .next t → t.params = s.params

/-! ### What a command cannot learn -/

/-- R31, R22: while `cfg` is not Ready no rule reads the timing registers: whatever they hold, every command does the
same. -/
def Obligations.UnconfiguredTableUnread : Prop :=
  ∀ (s t : State) (i : Instr) (other : TimingTable), s.cfg ≠ .ready → exec i s = .next t →
    exec i { s with table := other } = .next (if t.cfg = .ready then t else { t with table := other })

/-- R144: the draw `alloc_ok` is looked at only by a SUBMIT that passes every check before it: whatever the draws are, every
other command does the same. -/
def Obligations.AllocDrawUnread : Prop :=
  ∀ (s t : State) (i : Instr) (draws : List Bool) (k : Nat),
    (∀ cs, i = .submit cs → s.cfg ≠ .ready ∨ s.inFlight) → exec i s = .next t →
    ∃ draws' k', exec i { s with allocDraws := draws, drawIndex := k } =
      .next { t with allocDraws := draws', drawIndex := k' }

/-- R174, R6: no rule of SUBMIT, ENCODE or TXDONE reads the tick rate, the tolerance or the nominal period. -/
def Obligations.ClockReadByConfigOnly : Prop :=
  ∀ (s t : State) (i : Instr) (hz ns nom : Nat), (∀ a b c d e, i ≠ .config a b c d e) → exec i s = .next t →
    exec i { s with params := { s.params with tickHz := hz, tolNs := ns, periodNomNs := nom } } =
      .next { t with params := { s.params with tickHz := hz, tolNs := ns, periodNomNs := nom } }
end

