-- ==== Sys2Proof/Laws/State.lean ====
section
/-! SUPPORT. One lemma for each field and each shared update of the state, true by unfolding, so that no later proof unfolds
a record update. -/

namespace Sys2Proof.Laws

open Sys2Proof.Machine

/-! ### the draw of R29 consumed -/

@[simp] theorem afterDraw_params (s : State) : (afterDraw s).params = s.params := rfl
@[simp] theorem afterDraw_cfg (s : State) : (afterDraw s).cfg = s.cfg := rfl
@[simp] theorem afterDraw_table (s : State) : (afterDraw s).table = s.table := rfl
@[simp] theorem afterDraw_st (s : State) : (afterDraw s).st = s.st := rfl
@[simp] theorem afterDraw_flags (s : State) : (afterDraw s).flags = s.flags := rfl
@[simp] theorem afterDraw_len (s : State) : (afterDraw s).len = s.len := rfl
@[simp] theorem afterDraw_fb (s : State) : (afterDraw s).fb = s.fb := rfl
@[simp] theorem afterDraw_pos (s : State) : (afterDraw s).pos = s.pos := rfl
@[simp] theorem afterDraw_out (s : State) : (afterDraw s).out = s.out := rfl
@[simp] theorem afterDraw_cmd (s : State) : (afterDraw s).cmd = s.cmd := rfl
@[simp] theorem afterDraw_resetLine (s : State) : (afterDraw s).resetLine = s.resetLine := rfl
@[simp] theorem afterDraw_allocDraws (s : State) : (afterDraw s).allocDraws = s.allocDraws.tail := rfl
@[simp] theorem afterDraw_drawIndex (s : State) : (afterDraw s).drawIndex = s.drawIndex + 1 := rfl
@[simp] theorem afterDraw_resetIndex (s : State) : (afterDraw s).resetIndex = s.resetIndex := rfl
@[simp] theorem afterDraw_chan (s : State) : (afterDraw s).chan = s.chan := rfl

/-! ### the sample of R160 read -/

@[simp] theorem afterSample_params (s : State) : (afterSample s).params = s.params := rfl
@[simp] theorem afterSample_cfg (s : State) : (afterSample s).cfg = s.cfg := rfl
@[simp] theorem afterSample_table (s : State) : (afterSample s).table = s.table := rfl
@[simp] theorem afterSample_st (s : State) : (afterSample s).st = s.st := rfl
@[simp] theorem afterSample_flags (s : State) : (afterSample s).flags = s.flags := rfl
@[simp] theorem afterSample_len (s : State) : (afterSample s).len = s.len := rfl
@[simp] theorem afterSample_fb (s : State) : (afterSample s).fb = s.fb := rfl
@[simp] theorem afterSample_pos (s : State) : (afterSample s).pos = s.pos := rfl
@[simp] theorem afterSample_out (s : State) : (afterSample s).out = s.out := rfl
@[simp] theorem afterSample_cmd (s : State) : (afterSample s).cmd = s.cmd := rfl
@[simp] theorem afterSample_resetLine (s : State) : (afterSample s).resetLine = s.resetLine.tail := rfl
@[simp] theorem afterSample_allocDraws (s : State) : (afterSample s).allocDraws = s.allocDraws := rfl
@[simp] theorem afterSample_drawIndex (s : State) : (afterSample s).drawIndex = s.drawIndex := rfl
@[simp] theorem afterSample_resetIndex (s : State) : (afterSample s).resetIndex = s.resetIndex := rfl
@[simp] theorem afterSample_chan (s : State) : (afterSample s).chan = s.chan := rfl

/-! ### the command consumed (R71) -/

@[simp] theorem afterFetch_params (rest : List Word) (s : State) : (afterFetch rest s).params = s.params := rfl
@[simp] theorem afterFetch_cfg (rest : List Word) (s : State) : (afterFetch rest s).cfg = s.cfg := rfl
@[simp] theorem afterFetch_table (rest : List Word) (s : State) : (afterFetch rest s).table = s.table := rfl
@[simp] theorem afterFetch_st (rest : List Word) (s : State) : (afterFetch rest s).st = s.st := rfl
@[simp] theorem afterFetch_flags (rest : List Word) (s : State) : (afterFetch rest s).flags = s.flags := rfl
@[simp] theorem afterFetch_len (rest : List Word) (s : State) : (afterFetch rest s).len = s.len := rfl
@[simp] theorem afterFetch_fb (rest : List Word) (s : State) : (afterFetch rest s).fb = s.fb := rfl
@[simp] theorem afterFetch_pos (rest : List Word) (s : State) : (afterFetch rest s).pos = s.pos := rfl
@[simp] theorem afterFetch_out (rest : List Word) (s : State) : (afterFetch rest s).out = s.out := rfl
@[simp] theorem afterFetch_cmd (rest : List Word) (s : State) : (afterFetch rest s).cmd = rest := rfl
@[simp] theorem afterFetch_resetLine (rest : List Word) (s : State) : (afterFetch rest s).resetLine = s.resetLine := rfl
@[simp] theorem afterFetch_allocDraws (rest : List Word) (s : State) : (afterFetch rest s).allocDraws = s.allocDraws := rfl
@[simp] theorem afterFetch_drawIndex (rest : List Word) (s : State) : (afterFetch rest s).drawIndex = s.drawIndex := rfl
@[simp] theorem afterFetch_resetIndex (rest : List Word) (s : State) : (afterFetch rest s).resetIndex = s.resetIndex := rfl
@[simp] theorem afterFetch_chan (rest : List Word) (s : State) : (afterFetch rest s).chan = s.chan := rfl

/-! ### the Frame Buffer written (R103) -/

@[simp] theorem loadFrame_params (wire : List Byte) (s : State) : (loadFrame wire s).params = s.params := rfl
@[simp] theorem loadFrame_cfg (wire : List Byte) (s : State) : (loadFrame wire s).cfg = s.cfg := rfl
@[simp] theorem loadFrame_table (wire : List Byte) (s : State) : (loadFrame wire s).table = s.table := rfl
@[simp] theorem loadFrame_st (wire : List Byte) (s : State) : (loadFrame wire s).st = s.st := rfl
@[simp] theorem loadFrame_flags (wire : List Byte) (s : State) : (loadFrame wire s).flags = s.flags := rfl
@[simp] theorem loadFrame_len (wire : List Byte) (s : State) : (loadFrame wire s).len = s.len := rfl
@[simp] theorem loadFrame_fb (wire : List Byte) (s : State) : (loadFrame wire s).fb = Memory.writeFrom 0 wire [] := rfl
@[simp] theorem loadFrame_pos (wire : List Byte) (s : State) : (loadFrame wire s).pos = s.pos := rfl
@[simp] theorem loadFrame_out (wire : List Byte) (s : State) : (loadFrame wire s).out = s.out := rfl
@[simp] theorem loadFrame_cmd (wire : List Byte) (s : State) : (loadFrame wire s).cmd = s.cmd := rfl
@[simp] theorem loadFrame_resetLine (wire : List Byte) (s : State) : (loadFrame wire s).resetLine = s.resetLine := rfl
@[simp] theorem loadFrame_allocDraws (wire : List Byte) (s : State) : (loadFrame wire s).allocDraws = s.allocDraws := rfl
@[simp] theorem loadFrame_drawIndex (wire : List Byte) (s : State) : (loadFrame wire s).drawIndex = s.drawIndex := rfl
@[simp] theorem loadFrame_resetIndex (wire : List Byte) (s : State) : (loadFrame wire s).resetIndex = s.resetIndex := rfl
@[simp] theorem loadFrame_chan (wire : List Byte) (s : State) : (loadFrame wire s).chan = s.chan := rfl

/-! ### `QPush` (R42) -/

@[simp] theorem qPush_params (y : PulseSymbol) (s : State) : (qPush y s).params = s.params := rfl
@[simp] theorem qPush_cfg (y : PulseSymbol) (s : State) : (qPush y s).cfg = s.cfg := rfl
@[simp] theorem qPush_table (y : PulseSymbol) (s : State) : (qPush y s).table = s.table := rfl
@[simp] theorem qPush_st (y : PulseSymbol) (s : State) : (qPush y s).st = s.st := rfl
@[simp] theorem qPush_flags (y : PulseSymbol) (s : State) : (qPush y s).flags = s.flags := rfl
@[simp] theorem qPush_len (y : PulseSymbol) (s : State) : (qPush y s).len = s.len := rfl
@[simp] theorem qPush_fb (y : PulseSymbol) (s : State) : (qPush y s).fb = s.fb := rfl
@[simp] theorem qPush_pos (y : PulseSymbol) (s : State) : (qPush y s).pos = s.pos := rfl
@[simp] theorem qPush_out (y : PulseSymbol) (s : State) : (qPush y s).out = s.out ++ [y] := rfl
@[simp] theorem qPush_cmd (y : PulseSymbol) (s : State) : (qPush y s).cmd = s.cmd := rfl
@[simp] theorem qPush_resetLine (y : PulseSymbol) (s : State) : (qPush y s).resetLine = s.resetLine := rfl
@[simp] theorem qPush_allocDraws (y : PulseSymbol) (s : State) : (qPush y s).allocDraws = s.allocDraws := rfl
@[simp] theorem qPush_drawIndex (y : PulseSymbol) (s : State) : (qPush y s).drawIndex = s.drawIndex := rfl
@[simp] theorem qPush_resetIndex (y : PulseSymbol) (s : State) : (qPush y s).resetIndex = s.resetIndex := rfl
@[simp] theorem qPush_chan (y : PulseSymbol) (s : State) : (qPush y s).chan = s.chan ++ [.sym y.word] := rfl

/-! ### a response (R68) -/

@[simp] theorem respond_params (e : Status) (n : Nat) (s : State) : (respond e n s).params = s.params := rfl
@[simp] theorem respond_cfg (e : Status) (n : Nat) (s : State) : (respond e n s).cfg = s.cfg := rfl
@[simp] theorem respond_table (e : Status) (n : Nat) (s : State) : (respond e n s).table = s.table := rfl
@[simp] theorem respond_st (e : Status) (n : Nat) (s : State) : (respond e n s).st = s.st := rfl
@[simp] theorem respond_flags (e : Status) (n : Nat) (s : State) : (respond e n s).flags = s.flags := rfl
@[simp] theorem respond_len (e : Status) (n : Nat) (s : State) : (respond e n s).len = s.len := rfl
@[simp] theorem respond_fb (e : Status) (n : Nat) (s : State) : (respond e n s).fb = s.fb := rfl
@[simp] theorem respond_pos (e : Status) (n : Nat) (s : State) : (respond e n s).pos = s.pos := rfl
@[simp] theorem respond_out (e : Status) (n : Nat) (s : State) : (respond e n s).out = s.out := rfl
@[simp] theorem respond_cmd (e : Status) (n : Nat) (s : State) : (respond e n s).cmd = s.cmd := rfl
@[simp] theorem respond_resetLine (e : Status) (n : Nat) (s : State) : (respond e n s).resetLine = s.resetLine := rfl
@[simp] theorem respond_allocDraws (e : Status) (n : Nat) (s : State) : (respond e n s).allocDraws = s.allocDraws := rfl
@[simp] theorem respond_drawIndex (e : Status) (n : Nat) (s : State) : (respond e n s).drawIndex = s.drawIndex := rfl
@[simp] theorem respond_resetIndex (e : Status) (n : Nat) (s : State) : (respond e n s).resetIndex = s.resetIndex := rfl
@[simp] theorem respond_chan (e : Status) (n : Nat) (s : State) : (respond e n s).chan = s.chan ++ [response e n s.flags] := rfl

/-! ### `raise` (R131): nothing changes but the response channel -/

@[simp] theorem raise_params (e : Status) (s : State) : (raise e s).params = s.params := rfl
@[simp] theorem raise_cfg (e : Status) (s : State) : (raise e s).cfg = s.cfg := rfl
@[simp] theorem raise_table (e : Status) (s : State) : (raise e s).table = s.table := rfl
@[simp] theorem raise_st (e : Status) (s : State) : (raise e s).st = s.st := rfl
@[simp] theorem raise_flags (e : Status) (s : State) : (raise e s).flags = s.flags := rfl
@[simp] theorem raise_len (e : Status) (s : State) : (raise e s).len = s.len := rfl
@[simp] theorem raise_fb (e : Status) (s : State) : (raise e s).fb = s.fb := rfl
@[simp] theorem raise_pos (e : Status) (s : State) : (raise e s).pos = s.pos := rfl
@[simp] theorem raise_out (e : Status) (s : State) : (raise e s).out = s.out := rfl
@[simp] theorem raise_cmd (e : Status) (s : State) : (raise e s).cmd = s.cmd := rfl
@[simp] theorem raise_resetLine (e : Status) (s : State) : (raise e s).resetLine = s.resetLine := rfl
@[simp] theorem raise_allocDraws (e : Status) (s : State) : (raise e s).allocDraws = s.allocDraws := rfl
@[simp] theorem raise_drawIndex (e : Status) (s : State) : (raise e s).drawIndex = s.drawIndex := rfl
@[simp] theorem raise_resetIndex (e : Status) (s : State) : (raise e s).resetIndex = s.resetIndex := rfl
@[simp] theorem raise_chan (e : Status) (s : State) : (raise e s).chan = s.chan ++ [response e 0 s.flags] := rfl

/-! ### hardware reset (R160, R31) -/

@[simp] theorem hardwareReset_params (s : State) : (hardwareReset s).params = s.params := rfl
@[simp] theorem hardwareReset_cfg (s : State) : (hardwareReset s).cfg = .unconfigured := rfl
@[simp] theorem hardwareReset_table (s : State) : (hardwareReset s).table = TimingTable.unspecified s.resetIndex := rfl
@[simp] theorem hardwareReset_st (s : State) : (hardwareReset s).st = .idle := rfl
@[simp] theorem hardwareReset_flags (s : State) : (hardwareReset s).flags = Flags.noSession := rfl
@[simp] theorem hardwareReset_len (s : State) : (hardwareReset s).len = 0 := rfl
@[simp] theorem hardwareReset_fb (s : State) : (hardwareReset s).fb = [] := rfl
@[simp] theorem hardwareReset_pos (s : State) : (hardwareReset s).pos = 0 := rfl
@[simp] theorem hardwareReset_out (s : State) : (hardwareReset s).out = [] := rfl
@[simp] theorem hardwareReset_cmd (s : State) : (hardwareReset s).cmd = s.cmd := rfl
@[simp] theorem hardwareReset_resetLine (s : State) : (hardwareReset s).resetLine = s.resetLine := rfl
@[simp] theorem hardwareReset_allocDraws (s : State) : (hardwareReset s).allocDraws = s.allocDraws := rfl
@[simp] theorem hardwareReset_drawIndex (s : State) : (hardwareReset s).drawIndex = s.drawIndex := rfl
@[simp] theorem hardwareReset_resetIndex (s : State) : (hardwareReset s).resetIndex = s.resetIndex + 1 := rfl
@[simp] theorem hardwareReset_chan (s : State) : (hardwareReset s).chan = s.chan := rfl

/-! ### an accepted SUBMIT (R103) -/

@[simp] theorem startSession_params (cs : List Colour) (s : State) : (startSession cs s).params = s.params := rfl
@[simp] theorem startSession_cfg (cs : List Colour) (s : State) : (startSession cs s).cfg = s.cfg := rfl
@[simp] theorem startSession_table (cs : List Colour) (s : State) : (startSession cs s).table = s.table := rfl
@[simp] theorem startSession_st (cs : List Colour) (s : State) : (startSession cs s).st = .encoding := rfl
@[simp] theorem startSession_flags (cs : List Colour) (s : State) : (startSession cs s).flags = Flags.fresh := rfl
@[simp] theorem startSession_len (cs : List Colour) (s : State) : (startSession cs s).len = 3 * cs.length := rfl
@[simp] theorem startSession_fb (cs : List Colour) (s : State) : (startSession cs s).fb = Memory.writeFrom 0 (wireBytes cs) [] := rfl
@[simp] theorem startSession_pos (cs : List Colour) (s : State) : (startSession cs s).pos = 0 := rfl
@[simp] theorem startSession_out (cs : List Colour) (s : State) : (startSession cs s).out = [] := rfl
@[simp] theorem startSession_cmd (cs : List Colour) (s : State) : (startSession cs s).cmd = s.cmd := rfl
@[simp] theorem startSession_resetLine (cs : List Colour) (s : State) : (startSession cs s).resetLine = s.resetLine := rfl
@[simp] theorem startSession_allocDraws (cs : List Colour) (s : State) : (startSession cs s).allocDraws = s.allocDraws := rfl
@[simp] theorem startSession_drawIndex (cs : List Colour) (s : State) : (startSession cs s).drawIndex = s.drawIndex := rfl
@[simp] theorem startSession_resetIndex (cs : List Colour) (s : State) : (startSession cs s).resetIndex = s.resetIndex := rfl
@[simp] theorem startSession_chan (cs : List Colour) (s : State) : (startSession cs s).chan = s.chan := rfl

/-! ### an accepted TXDONE (R123) -/

@[simp] theorem endSession_params (s : State) : (endSession s).params = s.params := rfl
@[simp] theorem endSession_cfg (s : State) : (endSession s).cfg = s.cfg := rfl
@[simp] theorem endSession_table (s : State) : (endSession s).table = s.table := rfl
@[simp] theorem endSession_st (s : State) : (endSession s).st = .idle := rfl
@[simp] theorem endSession_flags (s : State) : (endSession s).flags = Flags.noSession := rfl
@[simp] theorem endSession_len (s : State) : (endSession s).len = 0 := rfl
@[simp] theorem endSession_fb (s : State) : (endSession s).fb = [] := rfl
@[simp] theorem endSession_pos (s : State) : (endSession s).pos = 0 := rfl
@[simp] theorem endSession_out (s : State) : (endSession s).out = s.out := rfl
@[simp] theorem endSession_cmd (s : State) : (endSession s).cmd = s.cmd := rfl
@[simp] theorem endSession_resetLine (s : State) : (endSession s).resetLine = s.resetLine := rfl
@[simp] theorem endSession_allocDraws (s : State) : (endSession s).allocDraws = s.allocDraws := rfl
@[simp] theorem endSession_drawIndex (s : State) : (endSession s).drawIndex = s.drawIndex := rfl
@[simp] theorem endSession_resetIndex (s : State) : (endSession s).resetIndex = s.resetIndex := rfl
@[simp] theorem endSession_chan (s : State) : (endSession s).chan = s.chan := rfl

/-! ### one turn of the loop of R104 -/

@[simp] theorem pushNext_params (y : PulseSymbol) (s : State) : (pushNext y s).params = s.params := rfl
@[simp] theorem pushNext_cfg (y : PulseSymbol) (s : State) : (pushNext y s).cfg = s.cfg := rfl
@[simp] theorem pushNext_table (y : PulseSymbol) (s : State) : (pushNext y s).table = s.table := rfl
@[simp] theorem pushNext_st (y : PulseSymbol) (s : State) : (pushNext y s).st = s.st := rfl
@[simp] theorem pushNext_flags (y : PulseSymbol) (s : State) : (pushNext y s).flags = s.flags := rfl
@[simp] theorem pushNext_len (y : PulseSymbol) (s : State) : (pushNext y s).len = s.len := rfl
@[simp] theorem pushNext_fb (y : PulseSymbol) (s : State) : (pushNext y s).fb = s.fb := rfl
@[simp] theorem pushNext_pos (y : PulseSymbol) (s : State) : (pushNext y s).pos = s.pos + 1 := rfl
@[simp] theorem pushNext_out (y : PulseSymbol) (s : State) : (pushNext y s).out = s.out ++ [y] := rfl
@[simp] theorem pushNext_cmd (y : PulseSymbol) (s : State) : (pushNext y s).cmd = s.cmd := rfl
@[simp] theorem pushNext_resetLine (y : PulseSymbol) (s : State) : (pushNext y s).resetLine = s.resetLine := rfl
@[simp] theorem pushNext_allocDraws (y : PulseSymbol) (s : State) : (pushNext y s).allocDraws = s.allocDraws := rfl
@[simp] theorem pushNext_drawIndex (y : PulseSymbol) (s : State) : (pushNext y s).drawIndex = s.drawIndex := rfl
@[simp] theorem pushNext_resetIndex (y : PulseSymbol) (s : State) : (pushNext y s).resetIndex = s.resetIndex := rfl
@[simp] theorem pushNext_chan (y : PulseSymbol) (s : State) : (pushNext y s).chan = s.chan ++ [.sym y.word] := rfl

/-! ### the flags an invocation starts from (R104) -/

@[simp] theorem beginInvocation_params (s : State) : (beginInvocation s).params = s.params := rfl
@[simp] theorem beginInvocation_cfg (s : State) : (beginInvocation s).cfg = s.cfg := rfl
@[simp] theorem beginInvocation_table (s : State) : (beginInvocation s).table = s.table := rfl
@[simp] theorem beginInvocation_st (s : State) : (beginInvocation s).st = s.st := rfl
@[simp] theorem beginInvocation_flags (s : State) : (beginInvocation s).flags = s.flags.beginInvocation := rfl
@[simp] theorem beginInvocation_len (s : State) : (beginInvocation s).len = s.len := rfl
@[simp] theorem beginInvocation_fb (s : State) : (beginInvocation s).fb = s.fb := rfl
@[simp] theorem beginInvocation_pos (s : State) : (beginInvocation s).pos = s.pos := rfl
@[simp] theorem beginInvocation_out (s : State) : (beginInvocation s).out = s.out := rfl
@[simp] theorem beginInvocation_cmd (s : State) : (beginInvocation s).cmd = s.cmd := rfl
@[simp] theorem beginInvocation_resetLine (s : State) : (beginInvocation s).resetLine = s.resetLine := rfl
@[simp] theorem beginInvocation_allocDraws (s : State) : (beginInvocation s).allocDraws = s.allocDraws := rfl
@[simp] theorem beginInvocation_drawIndex (s : State) : (beginInvocation s).drawIndex = s.drawIndex := rfl
@[simp] theorem beginInvocation_resetIndex (s : State) : (beginInvocation s).resetIndex = s.resetIndex := rfl
@[simp] theorem beginInvocation_chan (s : State) : (beginInvocation s).chan = s.chan := rfl

/-! ### the end of stage 1 (R104) -/

@[simp] theorem bytesDone_params (s : State) : (bytesDone s).params = s.params := by unfold bytesDone; split <;> rfl
@[simp] theorem bytesDone_cfg (s : State) : (bytesDone s).cfg = s.cfg := by unfold bytesDone; split <;> rfl
@[simp] theorem bytesDone_table (s : State) : (bytesDone s).table = s.table := by unfold bytesDone; split <;> rfl
@[simp] theorem bytesDone_flags (s : State) : (bytesDone s).flags = s.flags := by unfold bytesDone; split <;> rfl
@[simp] theorem bytesDone_len (s : State) : (bytesDone s).len = s.len := by unfold bytesDone; split <;> rfl
@[simp] theorem bytesDone_fb (s : State) : (bytesDone s).fb = s.fb := by unfold bytesDone; split <;> rfl
@[simp] theorem bytesDone_pos (s : State) : (bytesDone s).pos = s.pos := by unfold bytesDone; split <;> rfl
@[simp] theorem bytesDone_out (s : State) : (bytesDone s).out = s.out := by unfold bytesDone; split <;> rfl
@[simp] theorem bytesDone_cmd (s : State) : (bytesDone s).cmd = s.cmd := by unfold bytesDone; split <;> rfl
@[simp] theorem bytesDone_resetLine (s : State) : (bytesDone s).resetLine = s.resetLine := by unfold bytesDone; split <;> rfl
@[simp] theorem bytesDone_allocDraws (s : State) : (bytesDone s).allocDraws = s.allocDraws := by unfold bytesDone; split <;> rfl
@[simp] theorem bytesDone_drawIndex (s : State) : (bytesDone s).drawIndex = s.drawIndex := by unfold bytesDone; split <;> rfl
@[simp] theorem bytesDone_resetIndex (s : State) : (bytesDone s).resetIndex = s.resetIndex := by unfold bytesDone; split <;> rfl
@[simp] theorem bytesDone_chan (s : State) : (bytesDone s).chan = s.chan := by unfold bytesDone; split <;> rfl

/-! ### flow control (R104) -/

@[simp] theorem flowControl_params (space n : Nat) (s : State) : (flowControl space n s).params = s.params := by
  unfold flowControl; split
  · rfl
  · split <;> rfl
@[simp] theorem flowControl_cfg (space n : Nat) (s : State) : (flowControl space n s).cfg = s.cfg := by
  unfold flowControl; split
  · rfl
  · split <;> rfl
@[simp] theorem flowControl_table (space n : Nat) (s : State) : (flowControl space n s).table = s.table := by
  unfold flowControl; split
  · rfl
  · split <;> rfl
@[simp] theorem flowControl_st (space n : Nat) (s : State) : (flowControl space n s).st = s.st := by
  unfold flowControl; split
  · rfl
  · split <;> rfl
@[simp] theorem flowControl_len (space n : Nat) (s : State) : (flowControl space n s).len = s.len := by
  unfold flowControl; split
  · rfl
  · split <;> rfl
@[simp] theorem flowControl_fb (space n : Nat) (s : State) : (flowControl space n s).fb = s.fb := by
  unfold flowControl; split
  · rfl
  · split <;> rfl
@[simp] theorem flowControl_pos (space n : Nat) (s : State) : (flowControl space n s).pos = s.pos := by
  unfold flowControl; split
  · rfl
  · split <;> rfl
@[simp] theorem flowControl_out (space n : Nat) (s : State) : (flowControl space n s).out = s.out := by
  unfold flowControl; split
  · rfl
  · split <;> rfl
@[simp] theorem flowControl_cmd (space n : Nat) (s : State) : (flowControl space n s).cmd = s.cmd := by
  unfold flowControl; split
  · rfl
  · split <;> rfl
@[simp] theorem flowControl_resetLine (space n : Nat) (s : State) : (flowControl space n s).resetLine = s.resetLine := by
  unfold flowControl; split
  · rfl
  · split <;> rfl
@[simp] theorem flowControl_allocDraws (space n : Nat) (s : State) : (flowControl space n s).allocDraws = s.allocDraws := by
  unfold flowControl; split
  · rfl
  · split <;> rfl
@[simp] theorem flowControl_drawIndex (space n : Nat) (s : State) : (flowControl space n s).drawIndex = s.drawIndex := by
  unfold flowControl; split
  · rfl
  · split <;> rfl
@[simp] theorem flowControl_resetIndex (space n : Nat) (s : State) : (flowControl space n s).resetIndex = s.resetIndex := by
  unfold flowControl; split
  · rfl
  · split <;> rfl
@[simp] theorem flowControl_chan (space n : Nat) (s : State) : (flowControl space n s).chan = s.chan := by
  unfold flowControl; split
  · rfl
  · split <;> rfl

/-! ### the flag register -/

@[simp] theorem beginInvocation_complete (f : Flags) : f.beginInvocation.complete = f.complete := rfl
@[simp] theorem beginInvocation_memoryFull (f : Flags) : f.beginInvocation.memoryFull = false := rfl
@[simp] theorem beginInvocation_reset (f : Flags) : f.beginInvocation.reset = false := rfl
@[simp] theorem setComplete_complete (f : Flags) : f.setComplete.complete = true := rfl
@[simp] theorem setComplete_memoryFull (f : Flags) : f.setComplete.memoryFull = f.memoryFull := rfl
@[simp] theorem setComplete_reset (f : Flags) : f.setComplete.reset = f.reset := rfl
@[simp] theorem setMemoryFull_complete (f : Flags) : f.setMemoryFull.complete = f.complete := rfl
@[simp] theorem setMemoryFull_memoryFull (f : Flags) : f.setMemoryFull.memoryFull = true := rfl
@[simp] theorem setMemoryFull_reset (f : Flags) : f.setMemoryFull.reset = f.reset := rfl

end Sys2Proof.Laws
end

