-- ==== Sys2Proof/Laws/Memory.lean ====
section
/-! SUPPORT. The laws of the Frame Buffer: read after write, the canonical form, and what the writes of a SUBMIT leave. -/

namespace Sys2Proof.Laws

open Sys2Proof.Machine

@[simp] theorem Memory.read_nil (a : Nat) : Memory.read [] a = none := rfl

theorem Memory.read_write_same (m : Memory) (a : Nat) (v : Byte) : Memory.read (Memory.write m a v) a = some v := by
  induction m with
  | nil => simp [Memory.write, Memory.read]
  | cons c m ih =>
    obtain ⟨k, w⟩ := c
    simp only [Memory.write]
    split
    · simp [Memory.read]
    · split
      · simp [Memory.read]
      · rename_i h1 h2
        simp [Memory.read, ih, Ne.symm h2]

theorem Memory.read_write_other (m : Memory) (a b : Nat) (v : Byte) (h : b ≠ a) :
    Memory.read (Memory.write m a v) b = Memory.read m b := by
  induction m with
  | nil => simp [Memory.write, Memory.read, Ne.symm h]
  | cons c m ih =>
    obtain ⟨k, w⟩ := c
    simp only [Memory.write]
    split
    · simp [Memory.read, Ne.symm h]
    · split
      · rename_i h1 h2
        subst h2
        simp [Memory.read, Ne.symm h]
      · simp [Memory.read, ih]

/-- Which addresses a write leaves listed. -/
theorem Memory.mem_keys_write (m : Memory) (a : Nat) (v : Byte) (x : Nat) :
    x ∈ (Memory.write m a v).map Prod.fst ↔ x = a ∨ x ∈ m.map Prod.fst := by
  induction m with
  | nil => simp [Memory.write]
  | cons c m ih =>
    obtain ⟨k, w⟩ := c
    simp only [Memory.write]
    split
    · simp
    · split
      · rename_i h1 h2
        subst h2
        simp
      · simp only [List.map_cons, List.mem_cons, ih]
        tauto

/-- Every write keeps the canonical form. -/
theorem Memory.write_wf (m : Memory) (a : Nat) (v : Byte) (h : Memory.wf m) : Memory.wf (Memory.write m a v) := by
  induction m with
  | nil => simp [Memory.write, Memory.wf]
  | cons c m ih =>
    obtain ⟨k, w⟩ := c
    simp only [Memory.wf, List.map_cons, List.pairwise_cons] at h
    simp only [Memory.write]
    split
    · rename_i h1
      simp only [Memory.wf, List.map_cons, List.pairwise_cons, List.mem_cons]
      refine ⟨?_, h⟩
      rintro x (rfl | hx)
      · exact h1
      · exact lt_trans h1 (h.1 x hx)
    · split
      · rename_i h1 h2
        subst h2
        simpa only [Memory.wf, List.map_cons, List.pairwise_cons] using h
      · rename_i h1 h2
        simp only [Memory.wf, List.map_cons, List.pairwise_cons]
        refine ⟨fun x hx => ?_, ih h.2⟩
        rcases (Memory.mem_keys_write m a v x).1 hx with rfl | hx
        · omega
        · exact h.1 x hx

theorem Memory.writeFrom_wf (bs : List Byte) :
    ∀ (a : Nat) (m : Memory), Memory.wf m → Memory.wf (Memory.writeFrom a bs m) := by
  induction bs with
  | nil => exact fun _ _ h => h
  | cons b bs ih => exact fun a m h => ih _ _ (Memory.write_wf m a b h)

/-- A write above every listed address adds its cell at the end. -/
theorem Memory.write_above (m : Memory) (a : Nat) (v : Byte) (h : ∀ x ∈ m.map Prod.fst, x < a) :
    Memory.write m a v = m ++ [(a, v)] := by
  induction m with
  | nil => rfl
  | cons c m ih =>
    obtain ⟨k, w⟩ := c
    have hk : k < a := h k (by simp)
    have ht : ∀ x ∈ m.map Prod.fst, x < a := fun x hx => h x (by simp [hx])
    simp only [Memory.write]
    rw [if_neg (by omega), if_neg (by omega), ih ht]
    rfl

/-- The addresses the writes of a SUBMIT list are 0 .. 3N-1 (R103). -/
theorem Memory.keys_writeFrom (bs : List Byte) :
    ∀ (a : Nat) (m : Memory), (∀ x ∈ m.map Prod.fst, x < a) →
      (Memory.writeFrom a bs m).map Prod.fst = m.map Prod.fst ++ List.range' a bs.length := by
  induction bs with
  | nil => intro a m _; simp [Memory.writeFrom]
  | cons b bs ih =>
    intro a m h
    simp only [Memory.writeFrom, Memory.write_above m a b h]
    rw [ih]
    · simp [List.range'_succ]
    · intro x hx
      simp only [List.map_append, List.mem_append] at hx
      rcases hx with hx | hx
      · exact Nat.lt_succ_of_lt (h x hx)
      · simp at hx; omega

/-- The bytes the writes of a SUBMIT list are the wire bytes in order (R103). -/
theorem Memory.values_writeFrom (bs : List Byte) :
    ∀ (a : Nat) (m : Memory), (∀ x ∈ m.map Prod.fst, x < a) →
      (Memory.writeFrom a bs m).map Prod.snd = m.map Prod.snd ++ bs := by
  induction bs with
  | nil => intro a m _; simp [Memory.writeFrom]
  | cons b bs ih =>
    intro a m h
    simp only [Memory.writeFrom, Memory.write_above m a b h]
    rw [ih]
    · simp
    · intro x hx
      simp only [List.map_append, List.mem_append] at hx
      rcases hx with hx | hx
      · exact Nat.lt_succ_of_lt (h x hx)
      · simp at hx; omega

/-- A buffer whose addresses are `a, a+1, ...` reads at `a + i` as its i-th byte. -/
theorem Memory.read_of_keys (m : Memory) :
    ∀ (a n : Nat), m.map Prod.fst = List.range' a n → ∀ i, Memory.read m (a + i) = (m.map Prod.snd)[i]? := by
  induction m with
  | nil => intro a n _ i; simp
  | cons c m ih =>
    obtain ⟨k, w⟩ := c
    intro a n h i
    cases n with
    | zero => simp at h
    | succ n =>
      simp only [List.map_cons, List.range'_succ, List.cons.injEq] at h
      obtain ⟨rfl, h⟩ := h
      cases i with
      | zero => simp [Memory.read]
      | succ i =>
        have := ih (k + 1) n h i
        simp only [Memory.read, List.map_cons, List.getElem?_cons_succ, ← this]
        rw [if_neg (by omega), Nat.add_right_comm, Nat.add_assoc]

/-- What the Frame Buffer reads as after a SUBMIT has written it. -/
theorem Memory.read_writeFrom (bs : List Byte) (i : Nat) : Memory.read (Memory.writeFrom 0 bs []) i = bs[i]? := by
  have hk := Memory.keys_writeFrom bs 0 [] (by simp)
  have hv := Memory.values_writeFrom bs 0 [] (by simp)
  have := Memory.read_of_keys _ 0 _ (by simpa using hk) i
  simpa [hv] using this

/-- In a state whose buffer is the bytes 0 .. L-1, `MemRead` is the list of those bytes (R41). -/
theorem memRead_eq (s : State) (h : s.fb.map Prod.fst = List.range s.len) (i : Nat) :
    memRead s i = (frameBytes s)[i]? := by
  rw [List.range_eq_range'] at h
  have hr := Memory.read_of_keys s.fb 0 s.len h i
  have hl : s.fb.length = s.len := by simpa using congrArg List.length h
  unfold memRead frameBytes
  rw [Nat.zero_add] at hr
  split
  · exact hr
  · symm
    rw [List.getElem?_eq_none]
    simp; omega

theorem length_frameBytes (s : State) (h : s.fb.map Prod.fst = List.range s.len) : (frameBytes s).length = s.len := by
  simpa [frameBytes] using congrArg List.length h

/-- The Frame Buffer right after reset has the canonical form. -/
theorem reset_fb_wf : Memory.wf State.reset.fb := List.Pairwise.nil

end Sys2Proof.Laws
end

