-- ==== Sys2Proof/Laws/Translator.lean ====
section
/-! SUPPORT. The laws of the translator and of the frame's symbol sequence: lengths, and the symbol at one position. -/

namespace Sys2Proof.Laws

open Sys2Proof.Machine

@[simp] theorem length_encodeByte (t : TimingTable) (b : Byte) : (encodeByte t b).length = 8 := rfl

@[simp] theorem length_wireBytes (cs : List Colour) : (wireBytes cs).length = 3 * cs.length := by
  induction cs with
  | nil => rfl
  | cons c cs ih =>
    simp only [wireBytes, List.flatMap_cons, List.length_append, List.length_cons] at ih ⊢
    rw [ih]
    simp [Colour.wire]; omega

/-- The bit symbols of a frame: eight for each byte. -/
@[simp] theorem length_dataSyms (t : TimingTable) (bs : List Byte) : (bs.flatMap (encodeByte t)).length = 8 * bs.length := by
  induction bs with
  | nil => rfl
  | cons b bs ih =>
    simp only [List.flatMap_cons, List.length_append, List.length_cons, length_encodeByte, ih]
    omega

theorem length_frameSyms (t : TimingTable) (bs : List Byte) : (frameSyms t bs).length = 8 * bs.length + 1 := by
  rw [frameSyms, List.length_append, length_dataSyms]
  rfl

theorem encodeByte_getElem? (t : TimingTable) (b : Byte) (k : Nat) (h : k < 8) :
    (encodeByte t b)[k]? = some (bitSym t b k) := by
  interval_cases k <;> rfl

/-- The symbol at position p of the bit symbols (R96). -/
theorem dataSyms_getElem? (t : TimingTable) (bs : List Byte) (p : Nat) :
    (bs.flatMap (encodeByte t))[p]? = (bs[p / 8]?).map fun b => bitSym t b (p % 8) := by
  induction bs generalizing p with
  | nil => simp
  | cons b bs ih =>
    rw [List.flatMap_cons]
    by_cases h : p < 8
    · rw [List.getElem?_append_left (by simpa using h), encodeByte_getElem? t b p h]
      have h0 : p / 8 = 0 := by omega
      have h1 : p % 8 = p := by omega
      simp [h0, h1]
    · rw [List.getElem?_append_right (by simp; omega), length_encodeByte, ih]
      have h0 : p / 8 = (p - 8) / 8 + 1 := by omega
      have h1 : (p - 8) % 8 = p % 8 := by omega
      rw [h0, h1, List.getElem?_cons_succ]

/-- A bit symbol is high in its first half, the reset symbol is low (R81). -/
theorem bitSym_l0 (t : TimingTable) (b : Byte) (k : Nat) : (bitSym t b k).l0 = true := by
  unfold bitSym
  split <;> rfl

theorem dataSyms_l0 (t : TimingTable) (bs : List Byte) : ∀ y ∈ bs.flatMap (encodeByte t), y.l0 = true := by
  intro y hy
  simp only [List.mem_flatMap] at hy
  obtain ⟨b, -, hy⟩ := hy
  simp only [encodeByte, List.mem_cons, List.not_mem_nil, or_false] at hy
  rcases hy with rfl | rfl | rfl | rfl | rfl | rfl | rfl | rfl <;> exact bitSym_l0 _ _ _

theorem symR_l0 (t : TimingTable) : t.symR.l0 = false := rfl

end Sys2Proof.Laws
end

