-- ==== Sys2Proof/Laws/Frame.lean ====
section
/-! SUPPORT. What the loop of R104 does, said once: how many symbols it pushes, which, and that nothing else changes. -/

namespace Sys2Proof.Laws

open Sys2Proof.Machine

/-- `s` after pushing the symbols `ys` one after another, the cursor moved past each. -/
def pushAll (ys : List PulseSymbol) (s : State) : State :=
  { s with
    out := s.out ++ ys
    chan := s.chan ++ ys.map fun y => .sym y.word
    pos := s.pos + ys.length }

theorem pushAll_nil (s : State) : pushAll [] s = s := by simp [pushAll]

theorem pushAll_cons (y : PulseSymbol) (ys : List PulseSymbol) (s : State) :
    pushAll (y :: ys) s = pushAll ys (pushNext y s) := by
  simp [pushAll, pushNext, qPush, Nat.add_comm, Nat.add_left_comm]

/-- The symbol the cursor stands at is the frame's symbol there (R96). -/
theorem frameSym_data (s : State) (h : s.fb.map Prod.fst = List.range s.len) (p : Nat) (hp : p < 8 * s.len) :
    frameSym s p = ((frameBytes s).flatMap (encodeByte s.table))[p]? := by
  rw [dataSyms_getElem?, frameSym, if_pos hp, memRead_eq s h]

/-- Stage 1's loop: as many bit symbols as there is room for and the frame still has, in frame order (R104). -/
theorem pushBits_eq (room : Nat) : ∀ (n : Nat) (s : State), s.fb.map Prod.fst = List.range s.len →
    pushBits room n s =
      some (n + min room (8 * s.len - s.pos),
        pushAll ((((frameBytes s).flatMap (encodeByte s.table)).drop s.pos).take room) s) := by
  induction room with
  | zero => intro n s _; simp [pushBits, pushAll_nil]
  | succ room ih =>
    intro n s h
    have hl : ((frameBytes s).flatMap (encodeByte s.table)).length = 8 * s.len := by
      rw [length_dataSyms, length_frameBytes s h]
    unfold pushBits
    split
    · rename_i hp
      rw [frameSym_data s h _ hp]
      have hp' : s.pos < ((frameBytes s).flatMap (encodeByte s.table)).length := by rw [hl]; exact hp
      rw [List.getElem?_eq_getElem hp']
      simp only []
      rw [ih _ _ (by simpa using h), List.drop_eq_getElem_cons hp', List.take_succ_cons, pushAll_cons]
      simp only [pushNext_len, pushNext_pos, Option.some.injEq, Prod.mk.injEq]
      exact ⟨by omega, rfl⟩
    · rename_i hp
      rw [List.drop_eq_nil_of_le (by omega), List.take_nil, pushAll_nil]
      simp only [Option.some.injEq, Prod.mk.injEq, and_true]
      omega

end Sys2Proof.Laws
end

