-- ==== Sys2Proof/Laws/Exec.lean ====
section
/-! SUPPORT. Everything a command, and a step, can do, said once: if it answers a next state, then one of these cases
holds. -/

namespace Sys2Proof.Laws

open Sys2Proof.Machine

@[simp] theorem pushAll_table (ys : List PulseSymbol) (s : State) : (pushAll ys s).table = s.table := rfl
@[simp] theorem pushAll_st (ys : List PulseSymbol) (s : State) : (pushAll ys s).st = s.st := rfl
@[simp] theorem pushAll_flags (ys : List PulseSymbol) (s : State) : (pushAll ys s).flags = s.flags := rfl
@[simp] theorem pushAll_len (ys : List PulseSymbol) (s : State) : (pushAll ys s).len = s.len := rfl
@[simp] theorem pushAll_pos (ys : List PulseSymbol) (s : State) : (pushAll ys s).pos = s.pos + ys.length := rfl
@[simp] theorem pushAll_params (ys : List PulseSymbol) (s : State) : (pushAll ys s).params = s.params := rfl

/-- What the loop of R104 can do in any state: it pushes bit symbols of the table, at most `room`, never past the data, and
stops only for want of room or of data. -/
theorem pushBits_next (room : Nat) : ∀ (n : Nat) (s : State) (r : Nat × State), pushBits room n s = some r →
    ∃ ys, r = (n + ys.length, pushAll ys s) ∧ ys.length ≤ room ∧
      (∀ y ∈ ys, y = s.table.sym0 ∨ y = s.table.sym1) ∧
      (ys = [] ∨ s.pos + ys.length ≤ 8 * s.len) ∧
      (ys.length = room ∨ 8 * s.len ≤ s.pos + ys.length) := by
  induction room with
  | zero =>
    intro n s r h
    simp only [pushBits, Option.some.injEq] at h
    exact ⟨[], by simp [← h, pushAll_nil], by simp, by simp, .inl rfl, .inl rfl⟩
  | succ room ih =>
    intro n s r h
    simp only [pushBits] at h
    split at h
    · rename_i hp
      split at h
      · cases h
      · rename_i y hy
        obtain ⟨ys, rfl, h1, h2, h3, h4⟩ := ih _ _ _ h
        refine ⟨y :: ys, by simp [pushAll_cons]; omega, by simpa using h1, ?_, .inr ?_, ?_⟩
        · intro z hz
          rcases List.mem_cons.1 hz with rfl | hz
          · simp only [frameSym, if_pos hp, Option.map_eq_some_iff] at hy
            obtain ⟨b, -, rfl⟩ := hy
            unfold bitSym
            split <;> simp
          · exact h2 z hz
        · rcases h3 with rfl | h3
          · simp; omega
          · simp at h3 ⊢; omega
        · simp at h4 ⊢; omega
    · rename_i hp
      simp only [Option.some.injEq] at h
      exact ⟨[], by simp [← h, pushAll_nil], by simp, by simp, .inl rfl, .inr (by simp; omega)⟩

/-- What an invocation can do in any state: push at most `space` symbols, each one of the three templates, move `st` and the
flags, and answer OK with the count. -/
theorem invocation_next (space : Nat) (s t : State) (h : invocation space s = .next t) :
    ∃ ys st' f, t = respond .ok ys.length { pushAll ys s with st := st', flags := f } ∧
      ys.length ≤ space ∧
      (∀ y ∈ ys, y = s.table.sym0 ∨ y = s.table.sym1 ∨ y = s.table.symR) ∧
      f.reset = false ∧
      (st' = s.st ∨ (s.st = .encoding ∧ st' = .appendingReset ∧ t.pos = 8 * s.len) ∨
        (s.st = .encoding ∧ st' = .done ∧ t.pos = 8 * s.len + 1) ∨
        (s.st = .appendingReset ∧ st' = .done ∧ t.pos = s.pos + 1 ∧ 1 ≤ space)) := by
  have flow : ∀ (n : Nat) (u : State), u.flags.reset = false →
      ∃ f, flowControl space n u = { u with flags := f } ∧ f.reset = false := by
    intro n u hu
    unfold flowControl
    split
    · exact ⟨_, rfl, hu⟩
    · split
      · exact ⟨_, rfl, hu⟩
      · exact ⟨_, rfl, hu⟩
  have finish : ∀ (ys : List PulseSymbol) (st' : FrameState) (f : Flags), f.reset = false →
      ∃ f', endInvocation space (ys.length, { pushAll ys s with st := st', flags := f }) =
        respond .ok ys.length { pushAll ys s with st := st', flags := f' } ∧ f'.reset = false := by
    intro ys st' f hf
    obtain ⟨f', h1, h2⟩ := flow ys.length { pushAll ys s with st := st', flags := f } hf
    exact ⟨f', by simp only [endInvocation, h1], h2⟩
  unfold invocation at h
  split at h
  · cases h
  · rename_i r hr
    cases h
    unfold stage1 at hr
    split at hr
    · rename_i hst
      have hst : s.st = .encoding := hst
      obtain ⟨r0, hr0, rfl⟩ := Option.map_eq_some_iff.1 hr
      obtain ⟨ys, rfl, h1, h2, h3, h4⟩ := pushBits_next _ _ _ _ hr0
      simp only [Nat.zero_add]
      by_cases hd : s.pos + ys.length = 8 * s.len
      · have hb : bytesDone (pushAll ys (beginInvocation s)) =
            { pushAll ys s with st := .appendingReset, flags := s.flags.beginInvocation } := by
          unfold bytesDone
          rw [if_pos (by simpa using hd)]
          rfl
        rw [hb]
        by_cases hs : ys.length < space
        · obtain ⟨f', e, hf⟩ := finish (ys ++ [s.table.symR]) .done s.flags.beginInvocation.setComplete rfl
          refine ⟨ys ++ [s.table.symR], .done, f', ?_, by simpa using hs, ?_, hf, ?_⟩
          · rw [← e]
            simp [stage2, hs, pushNext, qPush, pushAll, Nat.add_assoc]
          · intro y hy
            rcases List.mem_append.1 hy with hy | hy
            · exact (h2 y hy).imp id Or.inl
            · exact .inr (.inr (by simpa using hy))
          · refine .inr (.inr (.inl ⟨hst, rfl, ?_⟩))
            simp [endInvocation, stage2, hs]
            omega
        · obtain ⟨f', e, hf⟩ := finish ys .appendingReset s.flags.beginInvocation rfl
          refine ⟨ys, .appendingReset, f', ?_, h1, fun y hy => (h2 y hy).imp id Or.inl, hf, ?_⟩
          · rw [← e]; simp [stage2, hs]
          · refine .inr (.inl ⟨hst, rfl, ?_⟩)
            simp [endInvocation, stage2, hs]
            omega
      · have hb : bytesDone (pushAll ys (beginInvocation s)) =
            { pushAll ys s with st := s.st, flags := s.flags.beginInvocation } := by
          unfold bytesDone
          rw [if_neg (by simpa using hd)]
          rfl
        rw [hb]
        obtain ⟨f', e, hf⟩ := finish ys s.st s.flags.beginInvocation rfl
        refine ⟨ys, s.st, f', ?_, h1, fun y hy => (h2 y hy).imp id Or.inl, hf, .inl rfl⟩
        rw [← e]; simp [stage2, hst]
    · simp only [Option.some.injEq] at hr
      subst hr
      have hb : beginInvocation s = { pushAll [] s with st := s.st, flags := s.flags.beginInvocation } := by
        rw [pushAll_nil]; rfl
      by_cases hs : s.st = .appendingReset ∧ 0 < space
      · obtain ⟨f', e, hf⟩ := finish [s.table.symR] .done s.flags.beginInvocation.setComplete rfl
        refine ⟨[s.table.symR], .done, f', ?_, hs.2, by simp, hf, ?_⟩
        · rw [← e]
          simp [stage2, hs, pushNext, qPush, pushAll, beginInvocation]
        · exact .inr (.inr (.inr ⟨hs.1, rfl, by simp [endInvocation, stage2, hs], hs.2⟩))
      · obtain ⟨f', e, hf⟩ := finish [] s.st s.flags.beginInvocation rfl
        refine ⟨[], s.st, f', ?_, by simp, by simp, hf, .inl rfl⟩
        rw [← e, hb]
        simp [stage2, hs]

/-- What a refusing command leaves besides its response: a SUBMIT has consumed its draw. -/
def drawnBy (i : Instr) (s : State) : State :=
  match i with
  | .submit _ => afterDraw s
  | .config _ _ _ _ _ => s
  | .encode _ => s
  | .txdone => s

/-- Everything a command can do. -/
theorem exec_cases (i : Instr) (s t : State) (h : exec i s = .next t) :
    (∃ e, e ≠ .ok ∧ t = raise e (drawnBy i s)) ∨
    (∃ a b c d e, i = .config a b c d e ∧ s.cfg = .unconfigured ∧ t = raise .configError { s with cfg := .failed }) ∨
    (∃ a b c d e, i = .config a b c d e ∧ s.cfg = .unconfigured ∧
      validConfig s.params a.toNat b.toNat c.toNat d.toNat e.toNat = true ∧
      t = respond .ok 0 { s with table := tableOfOperands a b c d e, cfg := .ready }) ∨
    (∃ cs, i = .submit cs ∧ s.cfg = .ready ∧ ¬ s.inFlight ∧ cs.length ≤ s.params.maxLeds ∧ allocOk s = true ∧
      t = respond .ok 0 (startSession cs (afterDraw s))) ∨
    (∃ space, i = .encode space ∧ s.cfg = .ready ∧ s.inFlight ∧ invocation space.toNat s = .next t) ∨
    (i = .txdone ∧ s.cfg = .ready ∧ s.st = .done ∧ t = respond .ok 0 (endSession s)) := by
  cases i with
  | config a b c d e =>
    simp only [exec, execConfig] at h
    split at h
    · cases h; exact .inl ⟨.configError, by simp, rfl⟩
    · cases h; exact .inl ⟨.alreadyConfigured, by simp, rfl⟩
    · rename_i hc
      split at h
      · rename_i hv
        cases h; exact .inr (.inr (.inl ⟨a, b, c, d, e, rfl, hc, hv, rfl⟩))
      · cases h; exact .inr (.inl ⟨a, b, c, d, e, rfl, hc, rfl⟩)
  | submit cs =>
    simp only [exec, execSubmit, cfgStatus] at h
    cases hc : s.cfg <;> simp only [hc] at h
    · cases h; exact .inl ⟨.notReady, by simp, rfl⟩
    · split at h
      · cases h; exact .inl ⟨.busy, by simp, rfl⟩
      · rename_i hf
        split at h
        · cases h; exact .inl ⟨.allocFail, by simp, rfl⟩
        · rename_i ha
          rw [not_or] at ha
          cases h
          exact .inr (.inr (.inr (.inl ⟨cs, rfl, rfl, hf, by omega, by simpa using ha.2, rfl⟩)))
    · cases h; exact .inl ⟨.configError, by simp, rfl⟩
  | encode space =>
    simp only [exec, execEncode, cfgStatus] at h
    cases hc : s.cfg <;> simp only [hc] at h
    · cases h; exact .inl ⟨.notReady, by simp, rfl⟩
    · cases hst : s.st <;> simp only [hst] at h
      · cases h; exact .inl ⟨.noSession, by simp, rfl⟩
      · exact .inr (.inr (.inr (.inr (.inl ⟨space, rfl, rfl, .inl hst, h⟩))))
      · exact .inr (.inr (.inr (.inr (.inl ⟨space, rfl, rfl, .inr hst, h⟩))))
      · cases h; exact .inl ⟨.sessionComplete, by simp, rfl⟩
    · cases h; exact .inl ⟨.configError, by simp, rfl⟩
  | txdone =>
    simp only [exec, execTxdone, cfgStatus] at h
    cases hc : s.cfg <;> simp only [hc] at h
    · cases h; exact .inl ⟨.notReady, by simp, rfl⟩
    · split at h
      · cases h; exact .inl ⟨.spuriousTxDone, by simp, rfl⟩
      · rename_i hst
        cases h
        exact .inr (.inr (.inr (.inr (.inr ⟨rfl, rfl, by simpa using hst, rfl⟩))))
    · cases h; exact .inl ⟨.configError, by simp, rfl⟩

/-- Everything a step can do. -/
theorem step_cases (s t : State) (h : step s = .next t) :
    (resetAsserted s = true ∧ t = hardwareReset (afterSample s)) ∨
    (resetAsserted s = false ∧ decode s.cmd = .incomplete ∧ t = afterSample s) ∨
    (∃ rest, resetAsserted s = false ∧ decode s.cmd = .illegal rest ∧
      t = raise .illegalCommand (afterFetch rest (afterSample s))) ∨
    (∃ i rest, resetAsserted s = false ∧ decode s.cmd = .command i rest ∧
      exec i (afterFetch rest (afterSample s)) = .next t) := by
  unfold step at h
  cases hr : resetAsserted s <;> simp only [hr, Bool.false_eq_true, if_false, if_true] at h
  · unfold fetch at h
    cases hd : decode s.cmd <;> simp only [hd] at h
    · cases h; exact .inr (.inl ⟨rfl, rfl, rfl⟩)
    · cases h; exact .inr (.inr (.inl ⟨_, rfl, rfl, rfl⟩))
    · exact .inr (.inr (.inr ⟨_, _, rfl, rfl, h⟩))
  · cases h; exact .inl ⟨rfl, rfl⟩

end Sys2Proof.Laws
end

