-- ==== Sys2Proof/Laws/PerInstr.lean ====
section
/-! SUPPORT. Per command: the header alone decides the length (spec 30_encoding.md R71). -/

namespace Sys2Proof.Laws

theorem getLsbD_headerWord (op : BitVec 4) (arg : BitVec 28) (i : Nat) :
    (headerWord op arg).getLsbD i = if i < 28 then arg.getLsbD i else op.getLsbD (i - 28) := by
  have h := BitVec.getLsbD_append (x := op) (y := arg) (i := i)
  exact h.trans (by simp)

@[simp] theorem opField_headerWord (op : BitVec 4) (arg : BitVec 28) : opField (headerWord op arg) = op := by
  apply BitVec.eq_of_getLsbD_eq
  intro i hi
  simp only [opField, BitVec.getLsbD_extractLsb', getLsbD_headerWord]
  simp [hi]

@[simp] theorem argField_headerWord (op : BitVec 4) (arg : BitVec 28) : argField (headerWord op arg) = arg := by
  apply BitVec.eq_of_getLsbD_eq
  intro i hi
  simp only [argField, BitVec.getLsbD_extractLsb', getLsbD_headerWord]
  simp [hi]

/-- R71 for one command: its words are one header and as many operand words as that header announces. -/
def CommandLength.Statement (i : Instr) : Prop :=
  i.wf = true → ∃ h ops, encode i = h :: ops ∧ operandWords h = ops.length

theorem CommandLength.config (t0h t0l t1h t1l trst : Word) :
    CommandLength.Statement (.config t0h t0l t1h t1l trst) := by
  intro _
  exact ⟨_, _, rfl, by simp [operandWords, opField_headerWord, argField_headerWord]⟩

theorem CommandLength.submit (colours : List Colour) : CommandLength.Statement (.submit colours) := by
  intro h
  refine ⟨_, _, rfl, ?_⟩
  simp only [Instr.wf, decide_eq_true_eq] at h
  simp [operandWords, opField_headerWord, argField_headerWord]
  exact h

theorem CommandLength.encode (space : BitVec 28) : CommandLength.Statement (.encode space) := by
  intro _
  exact ⟨_, _, rfl, by simp [operandWords, opField_headerWord]⟩

theorem CommandLength.txdone : CommandLength.Statement .txdone := by
  intro _
  exact ⟨_, _, rfl, by simp [operandWords, opField_headerWord]⟩

end Sys2Proof.Laws
end

