-- ==== Sys2Proof/Machine/Assembler.lean ====
section
/-! DEFINITION. The textual form of commands in test programs (spec 30_encoding.md R72). -/

namespace Sys2Proof.Machine

/-- R72: a colour, `(r,g,b)`. -/
def Colour.text (c : Colour) : String :=
  "(" ++ toString c.r.toNat ++ "," ++ toString c.g.toNat ++ "," ++ toString c.b.toNat ++ ")"

/-- R72: one command on one line; a SUBMIT whose draw is `alloc_ok` = false carries `!allocfail`. -/
def asmLine (i : Instr) (allocOk : Bool) : String :=
  match i with
  | .config t0h t0l t1h t1l trst =>
    "CONFIG " ++ toString t0h.toNat ++ ", " ++ toString t0l.toNat ++ ", " ++ toString t1h.toNat ++ ", " ++
      toString t1l.toNat ++ ", " ++ toString trst.toNat
  | .submit colours =>
    "SUBMIT" ++ String.join (colours.map fun c => " " ++ Colour.text c) ++ (if allocOk then "" else " !allocfail")
  | .encode space => "ENCODE " ++ toString space.toNat
  | .txdone => "TXDONE"

end Sys2Proof.Machine
end

