-- ==== Sys2Proof/Tests/Slice0.lean ====
section
/-! SUPPORT. Tests. Expected words and states are those of spec/95_test_vectors.md (the part is named at each) or are
written out from the encodings of 30_encoding.md. Then one witness for the hypotheses of every statement. -/

set_option maxRecDepth 8000

namespace Sys2Proof.Tests

open Sys2Proof Sys2Proof.Machine

/-! ### Small states -/

/-- The reference parameters, with room for two LEDs (95, section 2). -/
def reference (exactFit : Bool) : Config.Params := ⟨10000000, 150, 1200, 2, exactFit⟩

/-- `CONFIG 4, 8, 8, 4, 500`. -/
def exampleTable : TimingTable := ⟨4#15, 8#15, 8#15, 4#15, 500#16⟩

/-- After reset, with one draw of `alloc_ok` supplied. -/
def unconfigured : State :=
  { State.afterReset (reference false) ⟨0#15, 0#15, 0#15, 0#15, 0#16⟩ with allocDraws := [true] }

def failed : State := { unconfigured with cfg := .failed }

def ready : State := { unconfigured with cfg := .ready, table := exampleTable }

/-- A session over the bytes of (10,20,30) of which `p` symbols have been pushed. -/
def session (st : FrameState) (flags : Flags) (p : Nat) : State :=
  { ready with
    st := st, flags := flags, len := 3, fb := [(0, 20#8), (1, 10#8), (2, 30#8)], pos := p
    out := (frameSyms exampleTable [20#8, 10#8, 30#8]).take p
    chan := ((frameSyms exampleTable [20#8, 10#8, 30#8]).take p).map fun y => Emission.sym y.word }

def fresh : State := session .encoding ⟨false, false, true⟩ 0
def midByte : State := session .encoding ⟨false, true, false⟩ 10
def dataDone : State := session .appendingReset ⟨false, true, false⟩ 24
def finished : State := session .done ⟨true, false, false⟩ 25

/-- Flags 011 need the parameter of R11. -/
def finishedExactFit : State := { session .done ⟨true, true, false⟩ 25 with params := reference true }

/-- An empty frame, just submitted. -/
def freshEmpty : State := { ready with st := .encoding, flags := ⟨false, false, true⟩ }

/-- An empty frame after an ENCODE without room. -/
def emptyDataDone : State := { ready with st := .appendingReset, flags := ⟨false, true, false⟩ }

/-- All clauses of the invariant, with the number of LEDs given. -/
abbrev InvFor (leds : Nat) (s : State) : Prop :=
  s.params.wf = true ∧ (s.cfg ≠ .ready → s.st = .idle) ∧
  (s.st = .idle → s.flags = Flags.noSession ∧ s.len = 0 ∧ s.pos = 0) ∧
  (s.st = .encoding → s.pos < 8 * s.len ∨ (s.pos = 0 ∧ s.len = 0 ∧ s.flags.reset = true)) ∧
  (s.st = .appendingReset → s.pos = 8 * s.len ∧ s.flags = ⟨false, true, false⟩) ∧
  ((s.st = .done ↔ s.flags.complete = true) ∧ (s.st = .done → s.pos = 8 * s.len + 1)) ∧
  (s.flags.reset = true → s.st = .encoding ∧ s.pos = 0 ∧ s.out = [] ∧ s.flags = Flags.fresh) ∧
  (s.st ≠ .idle → s.out = (theFrame s).take s.pos) ∧
  (s.cfg = .ready → s.table.valid s.params = true) ∧
  (s.st = .encoding → s.flags = Flags.fresh ∨ s.flags = ⟨false, true, false⟩) ∧
  (s.st = .done → s.flags = ⟨true, false, false⟩ ∨
    (s.flags = ⟨true, true, false⟩ ∧ s.params.exactFitSetsMemFull = true)) ∧
  s.fb.map Prod.fst = List.range s.len ∧ s.len = 3 * leds ∧ leds ≤ s.params.maxLeds ∧
  s.out.map PulseSymbol.word <:+ symWords s

theorem inv_of_leds (leds : Nat) (s : State) (h : InvFor leds s) : s.Inv := by
  obtain ⟨h0, h1, h2, h3, h4, h5, h6, h7, h8, h9, h10, h11, h12, h13, h14⟩ := h
  exact ⟨h0, h1, h2, h3, h4, h5, h6, h7, h8, h9, h10, h11, ⟨leds, h12, h13⟩, h14⟩

theorem unconfigured_inv : unconfigured.Inv := inv_of_leds 0 _ (by decide)
theorem failed_inv : failed.Inv := inv_of_leds 0 _ (by decide)
theorem ready_inv : ready.Inv := inv_of_leds 0 _ (by decide)
theorem fresh_inv : fresh.Inv := inv_of_leds 1 _ (by decide)
theorem midByte_inv : midByte.Inv := inv_of_leds 1 _ (by decide)
theorem dataDone_inv : dataDone.Inv := inv_of_leds 1 _ (by decide)
theorem finished_inv : finished.Inv := inv_of_leds 1 _ (by decide)
theorem finishedExactFit_inv : finishedExactFit.Inv := inv_of_leds 1 _ (by decide)
theorem freshEmpty_inv : freshEmpty.Inv := inv_of_leds 0 _ (by decide)
theorem emptyDataDone_inv : emptyDataDone.Inv := inv_of_leds 0 _ (by decide)

/-- The state a step or a command leaves. -/
def left : Host.Outcome State Fault Refusal → Option State
  | .next t => some t
  | .fault _ => none
  | .refused _ => none

/-- One step with these words put on CMD. -/
def after (ws : List Word) (s : State) : Option State := left (step (s.send ws))

/-- What one step adds to SYM and RSP. -/
def answer (ws : List Word) (s : State) : Option (List Emission) :=
  (after ws s).map fun t => t.chan.drop s.chan.length

/-! ### Well-formedness -/

/-- 2^28 colours do not fit the argument field (R12, R63). -/
theorem test_wf_refuses_too_many_colours (c : Colour) : (Instr.submit (List.replicate (2 ^ 28) c)).wf = false := by
  simp only [Instr.wf, List.length_replicate]
  decide

theorem test_wf_accepts_the_most_colours (c : Colour) :
    (Instr.submit (List.replicate (2 ^ 28 - 1) c)).wf = true := by
  simp only [Instr.wf, List.length_replicate]
  decide

/-! ### Decoding: words written out from R61 to R66 -/

theorem test_decode_config :
    decode [0b00010000000000000000000000000000#32, 4#32, 9#32, 0x80000001#32, 6#32, 500#32, 7#32] =
      .command (.config 4#32 9#32 0x80000001#32 6#32 500#32) [7#32] := by decide
theorem test_decode_config_incomplete : decode [0x10000000#32, 4#32, 8#32, 8#32, 4#32] = .incomplete := by decide
theorem test_decode_submit :
    decode [0b00100000000000000000000000000010#32, 0b11111111000000010000001000000011#32, 0x0004FF80#32] =
      .command (.submit [⟨1#8, 2#8, 3#8⟩, ⟨4#8, 255#8, 128#8⟩]) [] := by decide
theorem test_decode_encode :
    decode [0b00111000000000000000000000000001#32] = .command (.encode 0x8000001#28) [] := by decide
theorem test_decode_txdone : decode [0b01000000000000000000000000000000#32] = .command .txdone [] := by decide
theorem test_decode_illegal :
    [0x00000000#32, 0x10000001#32, 0x18000000#32, 0x40000001#32, 0x50000000#32, 0xF0000000#32].map
      (fun h => decode [h, 9#32]) = List.replicate 6 (.illegal [9#32]) := by decide

theorem test_encode_words :
    encode (.config 4#32 8#32 8#32 4#32 0x1F4#32) =
      [0x10000000#32, 0x4#32, 0x8#32, 0x8#32, 0x4#32, 0x1F4#32] ∧
    encode (.submit [⟨10#8, 20#8, 30#8⟩]) = [0x20000001#32, 0x000A141E#32] ∧
    encode (.encode 64#28) = [0x30000040#32] ∧ encode .txdone = [0x40000000#32] := by decide

/-- The opcode table's rows, as numbers. -/
theorem test_table_words :
    decodeTableWord 32 0x10000000 = some (.config 0#32 0#32 0#32 0#32 0#32) ∧
    decodeTableWord 32 0x20000002 = some (.submit [⟨0#8, 0#8, 0#8⟩, ⟨0#8, 0#8, 0#8⟩]) ∧
    decodeTableWord 32 0x30000005 = some (.encode 5#28) ∧
    decodeTableWord 32 0x40000000 = some .txdone ∧
    decodeTableWord 32 0x40000001 = none ∧
    decodeTableWord 64 0x000A141E20000001 = some (.submit [⟨10#8, 20#8, 30#8⟩]) := by decide

/-! ### One step each, against spec/95_test_vectors.md -/

/-- 2.1 row 14. -/
theorem test_config_odd_reset :
    answer [0x10000000#32, 4#32, 8#32, 8#32, 4#32, 501#32] unconfigured = some [.rsp 0#32 0#32] ∧
    (after [0x10000000#32, 4#32, 8#32, 8#32, 4#32, 501#32] unconfigured).map
      (fun t => (t.cfg, t.table.sym0.word, t.table.sym1.word, t.table.symR.word)) =
      some (.ready, 0x00088004#32, 0x00048008#32, 0x00FA00FB#32) := by decide

/-- 2.1 row 17: an operand is not truncated before the check. -/
theorem test_config_no_truncation :
    answer [0x10000000#32, 32768#32, 8#32, 8#32, 4#32, 500#32] unconfigured = some [.rsp 0x10000000#32 0#32] ∧
    (after [0x10000000#32, 32768#32, 8#32, 8#32, 4#32, 500#32] unconfigured).map State.cfg = some .failed := by decide

/-- P2 step 2, with the ignored bits of 2.4 set. -/
theorem test_submit_wire_order :
    answer [0x20000001#32, 0xAB0A141E#32] ready = some [.rsp 0x00000004#32 0#32] ∧
    (after [0x20000001#32, 0xAB0A141E#32] ready).map (fun t => (t.st, t.flags, t.fb, t.len)) =
      some (.encoding, ⟨false, false, true⟩, [(0, 20#8), (1, 10#8), (2, 30#8)], 3) := by decide

/-- 2.6 row 22: Busy, not AllocFail, and all four words are consumed. -/
theorem test_submit_busy :
    answer [0x20000003#32, 0#32, 0#32, 0#32] { midByte with allocDraws := [false] } =
      some [.rsp 0x30000002#32 0#32] ∧
    (after [0x20000003#32, 0#32, 0#32, 0#32, 5#32] midByte).map State.cmd = some [5#32] := by decide

/-- P2 step 6. -/
theorem test_encode_from_inside_a_byte :
    answer [0x3000000E#32] midByte = some
      (([false, false, true, false, true, false, false, false, false, true, true, true, true, false].map fun b =>
        Emission.sym (if b then 0x00048008#32 else 0x00088004#32)) ++ [.rsp 0x00000002#32 0x0000000E#32]) ∧
    (after [0x3000000E#32] midByte).map (fun t => (t.st, t.flags, t.pos)) =
      some (.appendingReset, ⟨false, true, false⟩, 24) := by decide

/-- 2.5 row 4, its last invocation, for both values of the parameter. -/
theorem test_encode_exact_fit :
    answer [0x30000001#32] dataDone = some [.sym 0x00FA00FA#32, .rsp 0x00000001#32 0x00000001#32] ∧
    answer [0x30000001#32] { dataDone with params := reference true } =
      some [.sym 0x00FA00FA#32, .rsp 0x00000003#32 0x00000001#32] := by decide

/-- 2.7. -/
theorem test_txdone :
    answer [0x40000000#32] finishedExactFit = some [.rsp 0#32 0#32] ∧
    (after [0x40000000#32] finished).map (fun t => (t.st, t.flags, t.len, t.pos, t.out.length)) =
      some (.idle, ⟨false, false, false⟩, 0, 0, 25) := by decide

/-- 2.6 row 10. -/
theorem test_txdone_spurious : answer [0x40000000#32] fresh = some [.rsp 0x70000004#32 0#32] := by decide

/-- 2.6 rows 12 and 21, and the note on word consumption. -/
theorem test_illegal_command :
    answer [0x10000001#32, 0x40000000#32] fresh = some [.rsp 0x80000004#32 0#32] ∧
    (after [0x10000001#32, 0x40000000#32] fresh).map State.cmd = some [0x40000000#32] ∧
    answer [0#32] failed = some [.rsp 0x80000000#32 0#32] := by decide

/-- R160: in the middle of a frame; what has left stays. -/
theorem test_hardware_reset :
    (after [0x30000001#32] { midByte with resetLine := [true] }).map
      (fun t => (t.cfg, t.st, t.flags, t.cmd)) =
      some (.unconfigured, .idle, ⟨false, false, false⟩, [0x30000001#32]) ∧
    (after [0x30000001#32] { midByte with resetLine := [true] }).map
      (fun t => (t.len, t.pos, t.out.length, t.chan.length)) = some (0, 0, 0, 10) := by decide

/-! ### The functions -/

/-- 2.3, 0x19: the reversed order would be another list. -/
theorem test_encode_byte : (encodeByte exampleTable 0x19#8).map PulseSymbol.word =
    [0x00088004#32, 0x00088004#32, 0x00088004#32, 0x00048008#32, 0x00048008#32, 0x00088004#32, 0x00088004#32,
      0x00048008#32] := by decide

/-- 2.4. -/
theorem test_wire_bytes : wireBytes [⟨1#8, 2#8, 3#8⟩, ⟨4#8, 5#8, 6#8⟩] = [2#8, 1#8, 3#8, 5#8, 4#8, 6#8] := by decide

/-- P1: 788 ticks. -/
theorem test_frame_ticks : ((frameSyms exampleTable [0#8, 25#8, 0#8]).map PulseSymbol.ticks).sum = 788 := by decide

/-- 2.2, the rows whose bound is met exactly or not at all. -/
theorem test_inTol :
    (List.range 30).filter (inTol ⟨10000000, 150, 1200, 1, false⟩) = [11, 12, 13] ∧
    (List.range 30).filter (inTol ⟨10000000, 150, 1250, 1, false⟩) = [11, 12, 13, 14] ∧
    (List.range 30).filter (inTol ⟨20000000, 150, 1200, 1, false⟩) = [21, 22, 23, 24, 25, 26, 27] ∧
    (List.range 30).filter (inTol ⟨10000000, 0, 1250, 1, false⟩) = [] := by decide

/-- 2.1 rows 7, 9, 10, 12, 13, 15, 16, 18: V1, V2 and V4 at their bounds. -/
theorem test_validConfig :
    validConfig (reference false) 0 12 8 4 500 = false ∧ validConfig (reference false) 6 6 6 6 500 = false ∧
    validConfig (reference false) 6 6 7 5 500 = true ∧ validConfig (reference false) 4 8 8 4 1 = false ∧
    validConfig (reference false) 4 8 8 4 2 = true ∧ validConfig (reference false) 4 8 8 4 65534 = true ∧
    validConfig (reference false) 4 8 8 4 65535 = false ∧
    validConfig (reference false) 4294967295 13 8 4 500 = false := by decide

theorem test_memory_canonical :
    Memory.write (Memory.write (Memory.write [] 2 7#8) 0 5#8) 2 9#8 = [(0, 5#8), (2, 9#8)] ∧
    Memory.read [(0, 5#8), (2, 9#8)] 1 = none ∧ Memory.read [(0, 5#8), (2, 9#8)] 2 = some 9#8 := by decide

/-- R72. -/
theorem test_assembler :
    asmLine (.submit [⟨25#8, 0#8, 0#8⟩]) false = "SUBMIT (25,0,0) !allocfail" ∧
    asmLine (.encode 64#28) true = "ENCODE 64" ∧
    asmLine (.config 4#32 8#32 8#32 4#32 500#32) true = "CONFIG 4, 8, 8, 4, 500" := by decide

/-- R73. -/
theorem test_pseudo : (Pseudo.encodeFrame 7#28).expand = .encode 7#28 ∧
    (Pseudo.setLedColors []).expand = .submit [] ∧
    (Pseudo.newEncoder 1#32 2#32 3#32 4#32 5#32).expand = .config 1#32 2#32 3#32 4#32 5#32 := by decide

/-! ### A witness for the hypotheses of every statement -/

theorem witness_DecodeEncodeRoundTrip :
    (Instr.config 4#32 8#32 8#32 4#32 500#32).wf = true ∧ (Instr.submit []).wf = true ∧
    (Instr.submit [⟨1#8, 2#8, 3#8⟩]).wf = true ∧ (Instr.encode 0xFFFFFFF#28).wf = true ∧
    Instr.txdone.wf = true := by decide

theorem witness_DecodedWordsAreTheCommand :
    decode [0x20000001#32, 0xAB0A141E#32, 7#32] = .command (.submit [⟨10#8, 20#8, 30#8⟩]) [7#32] ∧
    decode [0x40000000#32] = .command .txdone [] := by decide

/-- The last header before and the first after each bound of R67. -/
theorem witness_IllegalHeaderRefused :
    decode [0x0FFFFFFF#32] = .illegal [] ∧ decode [0x50000000#32] = .illegal [] ∧
    decode [0x10000001#32] = .illegal [] ∧ decode [0x4FFFFFFF#32] = .illegal [] ∧
    decode [0x10000000#32] = .incomplete ∧ decode [0x40000000#32] = .command .txdone [] ∧
    resetAsserted (midByte.send [0#32]) = false ∧ decode (midByte.send [0#32]).cmd = .illegal [] ∧
    (0xAB0A141E#32).toNat % 2 ^ 24 = (0x000A141E#32).toNat % 2 ^ 24 := by decide

theorem witness_SymbolWordLayout : (fresh.send [0x30000001#32]).Inv ∧
    ∃ t, step (fresh.send [0x30000001#32]) = .next t ∧ t.out = [⟨true, 4#15, false, 8#15⟩] :=
  ⟨inv_of_leds 1 _ (by decide), _, rfl, by decide⟩

theorem witness_ResponseWordLayout : 0 < 2 ^ 28 ∧ 2 ^ 28 - 1 < 2 ^ 28 := by decide

theorem witness_EveryCommandAnswersOnce : ∃ t, exec (.encode 2#28) fresh = .next t ∧ t.out.length = 2 :=
  ⟨_, rfl, by decide⟩

theorem witness_ToleranceCheckMeaning :
    (reference false).tickHz = 10000000 ∧ (reference false).periodNomNs = 1200 ∧ (reference false).tolNs = 150 := by
  decide

theorem witness_ConfigCommandEffect :
    failed.cfg = .failed ∧ midByte.cfg = .ready ∧
    unconfigured.cfg = .unconfigured ∧ validConfig unconfigured.params 4 10 8 4 500 = false ∧
    validConfig unconfigured.params 4 8 8 4 500 = true :=
  by decide

theorem witness_ConfigCommandEffect_flags :
    (unconfigured.Inv ∧ unconfigured.cfg ≠ .ready) ∧ (failed.Inv ∧ failed.cfg ≠ .ready) :=
  ⟨⟨unconfigured_inv, by decide⟩, failed_inv, by decide⟩

/-- Both bounds, and an odd one. -/
theorem witness_ResetSymbolSplit :
    (2 ≤ (⟨4#15, 8#15, 8#15, 4#15, 2#16⟩ : TimingTable).trst.toNat ∧
      (⟨4#15, 8#15, 8#15, 4#15, 2#16⟩ : TimingTable).trst.toNat ≤ 65534) ∧
    (2 ≤ (⟨4#15, 8#15, 8#15, 4#15, 501#16⟩ : TimingTable).trst.toNat ∧
      (⟨4#15, 8#15, 8#15, 4#15, 501#16⟩ : TimingTable).trst.toNat ≤ 65534) ∧
    (2 ≤ (⟨4#15, 8#15, 8#15, 4#15, 65534#16⟩ : TimingTable).trst.toNat ∧
      (⟨4#15, 8#15, 8#15, 4#15, 65534#16⟩ : TimingTable).trst.toNat ≤ 65534) := by decide

theorem witness_TimingTableImmutable : (dataDone.send [0x30000001#32]).cfg = .ready ∧
    resetAsserted (dataDone.send [0x30000001#32]) = false ∧
    ∃ t, step (dataDone.send [0x30000001#32]) = .next t ∧ t.out.length = 25 :=
  ⟨by decide, by decide, _, rfl, by decide⟩

theorem witness_TimingTableImmutable_frames : finished.Inv ∧ finishedExactFit.Inv ∧
    finished.st = .done ∧ finishedExactFit.st = .done ∧ finished.table = finishedExactFit.table ∧
    finished.len = finishedExactFit.len ∧ ∀ a, memRead finished a = memRead finishedExactFit a :=
  ⟨finished_inv, finishedExactFit_inv, by decide, by decide, by decide, by decide, fun _ => rfl⟩

theorem witness_ConfigStateMoves :
    (∃ t, step { midByte with resetLine := [true] } = .next t ∧ t.cfg = .unconfigured) ∧
    (∃ t, step (unconfigured.send (encode (.config 4#32 8#32 8#32 4#32 500#32))) = .next t ∧ t.cfg = .ready) ∧
    (∃ t, step (unconfigured.send (encode (.config 0#32 8#32 8#32 4#32 500#32))) = .next t ∧ t.cfg = .failed) :=
  ⟨⟨_, rfl, by decide⟩, ⟨_, rfl, by decide⟩, ⟨_, rfl, by decide⟩⟩

theorem witness_FailedIsFinal_config : ∃ t, exec (.config 0#32 8#32 8#32 4#32 500#32) unconfigured = .next t ∧
    t.chan.getLast? = some (response .configError 0 t.flags) :=
  ⟨_, rfl, by decide⟩

theorem witness_FailedIsFinal :
    ({ failed with resetLine := [false, false] } : State).cfg = .failed ∧
    ∀ b ∈ ({ failed with resetLine := [false, false] } : State).resetLine, b = false := by decide

theorem witness_ByteReconstruction :
    exampleTable.sym0 ≠ exampleTable.sym1 ∧ exampleTable.valid (reference false) = true := by decide

theorem witness_FrameSymbolSequence : 7 < 8 ∧ 2 < [20#8, 10#8, 30#8].length := by decide

theorem witness_CursorSymbol : midByte.Inv ∧ 0 < 8 * midByte.len ∧ 23 < 8 * midByte.len ∧ 24 = 8 * midByte.len :=
  ⟨midByte_inv, by decide⟩

theorem witness_FrameDuration : exampleTable.trst.toNat ≤ 65534 ∧
    21 = ([0#8, 25#8, 0#8].flatMap fun b : Byte => (List.range 8).map fun k => b.getLsbD (7 - k)).count false := by
  decide

/-- Clause by clause; MAX_LEDS is 2, so two colours are the most and three are too many. -/
theorem witness_SubmitCommandEffect :
    failed.cfg = .failed ∧ unconfigured.cfg = .unconfigured ∧
    (midByte.cfg = .ready ∧ midByte.inFlight) ∧ (dataDone.cfg = .ready ∧ dataDone.inFlight) ∧
    (ready.cfg = .ready ∧ ¬ ready.inFlight ∧ ready.params.maxLeds < 3) ∧
    (finished.cfg = .ready ∧ ¬ finished.inFlight ∧ allocOk { finished with allocDraws := [false] } = false) ∧
    (ready.cfg = .ready ∧ ¬ ready.inFlight ∧ 2 ≤ ready.params.maxLeds ∧ allocOk ready = true) ∧
    (finished.cfg = .ready ∧ ¬ finished.inFlight ∧ 0 ≤ finished.params.maxLeds ∧ allocOk finished = true) := by decide

theorem witness_EachSubmitTakesOneDraw : (∀ cs, Instr.encode 1#28 ≠ .submit cs) ∧
    ∃ t, exec (.encode 1#28) midByte = .next t ∧ t.pos = 11 :=
  ⟨fun _ h => Instr.noConfusion h, _, rfl, by decide⟩

theorem witness_FrameBufferLatched : midByte.st ≠ .idle ∧ midByte.inFlight ∧
    (∃ t, exec (.encode 3#28) midByte = .next t ∧ t.pos = 13) ∧
    (∃ t, exec (.submit []) midByte = .next t ∧ t.len = 3) ∧ (∃ t, exec .txdone midByte = .next t ∧ t.len = 3) :=
  ⟨by decide, by decide, ⟨_, rfl, by decide⟩, ⟨_, rfl, by decide⟩, ⟨_, rfl, by decide⟩⟩

/-- No room, room for less than is left, exactly as much, and more. -/
theorem witness_EncodeClosedForm : midByte.Inv ∧ midByte.cfg = .ready ∧ midByte.inFlight ∧
    0 = min (0#28).toNat (frameLength midByte - midByte.pos) ∧
    14 = min (14#28).toNat (frameLength midByte - midByte.pos) ∧
    15 = min (15#28).toNat (frameLength midByte - midByte.pos) ∧
    15 = min (0xFFFFFFF#28).toNat (frameLength midByte - midByte.pos) :=
  ⟨midByte_inv, by decide⟩

theorem witness_EncodeFlags : dataDone.Inv ∧ dataDone.cfg = .ready ∧ dataDone.inFlight ∧
    0 = min (0#28).toNat (frameLength dataDone - dataDone.pos) ∧
    1 = min (1#28).toNat (frameLength dataDone - dataDone.pos) ∧
    1 = min (2#28).toNat (frameLength dataDone - dataDone.pos) :=
  ⟨dataDone_inv, by decide⟩

theorem witness_EncodeRefused : failed.cfg = .failed ∧ unconfigured.cfg = .unconfigured ∧
    (ready.cfg = .ready ∧ ready.st = .idle) ∧ (finished.cfg = .ready ∧ finished.st = .done) := by decide

/-- The bytes read are 1 and 2; the other byte is another one. -/
theorem witness_EncodeReadsBoundedWindow :
    (∀ a, midByte.pos / 8 ≤ a → a < midByte.pos / 8 + ((3#28 : BitVec 28).toNat + 7) / 8 + 1 →
      Memory.read [(0, 99#8), (1, 10#8), (2, 30#8)] a = Memory.read midByte.fb a) ∧
    Memory.read [(0, 99#8), (1, 10#8), (2, 30#8)] 0 ≠ Memory.read midByte.fb 0 ∧
    ∃ t, exec (.encode 3#28) midByte = .next t ∧ t.pos = 13 := by
  refine ⟨fun a h1 h2 => ?_, by decide, _, rfl, by decide⟩
  have h3 : 1 ≤ a := h1
  have h4 : a < 3 := h2
  have : a = 1 ∨ a = 2 := by omega
  rcases this with rfl | rfl <;> decide

theorem witness_ResumptionSameSymbols : midByte.Inv ∧ midByte.inFlight ∧
    15 = ([0#28, 7#28, 0#28, 8#28].map BitVec.toNat).sum ∧ 14 = ([14#28].map BitVec.toNat).sum ∧
    0 = (([] : List (BitVec 28)).map BitVec.toNat).sum :=
  ⟨midByte_inv, by decide⟩

theorem witness_FinishedFrameTotal :
    (finished.Inv ∧ finished.st = .done) ∧ (finishedExactFit.Inv ∧ finishedExactFit.st = .done) :=
  ⟨⟨finished_inv, by decide⟩, finishedExactFit_inv, by decide⟩

theorem witness_EmptyFrame : (ready.Inv ∧ ready.cfg = .ready ∧ ¬ ready.inFlight ∧ allocOk ready = true) ∧
    (finished.Inv ∧ finished.cfg = .ready ∧ ¬ finished.inFlight ∧ allocOk finished = true) ∧
    1 ≤ (1#28).toNat ∧ (0#28).toNat = 0 :=
  ⟨⟨ready_inv, by decide⟩, ⟨finished_inv, by decide⟩, by decide⟩

theorem witness_MonotoneProgress :
    (midByte.Inv ∧ midByte.inFlight ∧ ∃ t, exec (.encode 3#28) midByte = .next t ∧ t.pos = 13) ∧
    (finished.Inv ∧ finished.st = .done ∧ ∃ t, exec (.encode 1#28) finished = .next t ∧ t.st = .done) :=
  ⟨⟨midByte_inv, by decide, _, rfl, by decide⟩, finished_inv, by decide, _, rfl, by decide⟩

theorem witness_TerminationMeasure : dataDone.Inv ∧ dataDone.inFlight ∧
    1 = frameLength dataDone - dataDone.pos ∧ 1 ≤ (1#28).toNat ∧ 1 ≤ [1#28].length ∧
    (∀ x ∈ [1#28], 1 ≤ x.toNat) ∧ (∀ x ∈ [0#28, 0#28], x.toNat = 0) :=
  ⟨dataDone_inv, by decide, by decide, by decide, by decide, by simp, by simp⟩

theorem witness_FairDriverFinishes : emptyDataDone.Inv ∧ emptyDataDone.inFlight ∧
    ∀ n, ∃ k, n ≤ k ∧ 1 ≤ ((fun j => BitVec.ofNat 28 (j % 2)) k).toNat := by
  refine ⟨emptyDataDone_inv, by decide, fun n => ⟨2 * n + 1, by omega, ?_⟩⟩
  have : (2 * n + 1) % 2 = 1 := by omega
  simp [this]

theorem witness_DrainFinishesFrame :
    fresh.Inv ∧ fresh.inFlight ∧ 1 ≤ (1#28).toNat ∧ frameLength fresh ≤ 25 :=
  ⟨fresh_inv, by decide⟩

theorem witness_WholeRefresh : (ready.Inv ∧ ready.cfg = .ready ∧ ¬ ready.inFlight ∧
      [(⟨25#8, 0#8, 0#8⟩ : Colour)].length ≤ ready.params.maxLeds ∧ allocOk ready = true) ∧
    (finished.Inv ∧ finished.cfg = .ready ∧ ¬ finished.inFlight ∧
      ([] : List Colour).length ≤ finished.params.maxLeds ∧ allocOk finished = true) ∧
    1 ≤ (7#28).toNat ∧ 24 * [(⟨25#8, 0#8, 0#8⟩ : Colour)].length + 1 ≤ 25 :=
  ⟨⟨ready_inv, by decide⟩, ⟨finished_inv, by decide⟩, by decide⟩

theorem witness_TxdoneCommandEffect : failed.cfg = .failed ∧ unconfigured.cfg = .unconfigured ∧
    (ready.cfg = .ready ∧ ready.st ≠ .done) ∧ (midByte.cfg = .ready ∧ midByte.st ≠ .done) ∧
    (finished.cfg = .ready ∧ finished.st = .done) := by decide

theorem witness_StatusPriority :
    (∃ t, exec (.submit [⟨1#8, 2#8, 3#8⟩]) midByte = .next t ∧ t.chan.length = 11) ∧
    resetAsserted (failed.send [0#32]) = false ∧ decode (failed.send [0#32]).cmd = .illegal [] ∧
    ∃ t, step (failed.send [0#32]) = .next t ∧ t.chan = [.rsp 0x80000000#32 0#32] :=
  ⟨⟨_, rfl, by decide⟩, by decide, by decide, _, rfl, by decide⟩

/-- A refused ENCODE, and the CONFIG that fails. -/
theorem witness_RefusedCommandChangesNothing :
    (Status.sessionComplete ≠ .ok ∧ ∃ t, exec (.encode 1#28) finished = .next t ∧
      t.chan.getLast? = some (.rsp (rsp0Word .sessionComplete (Flags.bits ⟨true, false, false⟩)) 0#32)) ∧
    (Status.configError ≠ .ok ∧ ∃ t, exec (.config 1#32 1#32 1#32 1#32 1#32) unconfigured = .next t ∧
      t.chan.getLast? = some (.rsp (rsp0Word .configError (Flags.bits ⟨false, false, false⟩)) 0#32)) :=
  ⟨⟨by decide, _, rfl, by decide⟩, by decide, _, rfl, by decide⟩

/-- Each transition of the statement: five states, and the two ways of one ENCODE out of `Encoding`. -/
theorem witness_FrameStateTransitions :
    (finished.Inv ∧ ∃ t, exec (.submit []) finished = .next t ∧ t.st = .encoding) ∧
    (midByte.Inv ∧ (∃ t, exec (.encode 14#28) midByte = .next t ∧ t.st = .appendingReset) ∧
      ∃ t, exec (.encode 15#28) midByte = .next t ∧ t.st = .done) ∧
    (dataDone.Inv ∧ ∃ t, exec (.encode 1#28) dataDone = .next t ∧ t.st = .done) ∧
    (finished.Inv ∧ ∃ t, exec .txdone finished = .next t ∧ t.st = .idle) :=
  ⟨⟨finished_inv, _, rfl, by decide⟩, ⟨midByte_inv, ⟨_, rfl, by decide⟩, _, rfl, by decide⟩,
    ⟨dataDone_inv, _, rfl, by decide⟩, finished_inv, _, rfl, by decide⟩

theorem witness_StepRunsDecodedCommand : resetAsserted (ready.send [0x30000001#32, 9#32]) = false ∧
    decode (ready.send [0x30000001#32, 9#32]).cmd = .command (.encode 1#28) [9#32] := by decide

theorem witness_PlacedWordRunsNext : 32 ≤ 32 ∧ 8 ≤ 32 ∧
    decodeTableWord 32 0x20000001 = some (.submit [⟨0#8, 0#8, 0#8⟩]) ∧
    decodeTableWord 8 0x40000000 = some .txdone := by decide

/-- No word, and a CONFIG that lacks its last operand. -/
theorem witness_RestHoldsState : (resetAsserted midByte = false ∧ decode midByte.cmd = .incomplete) ∧
    resetAsserted (unconfigured.send [0x10000000#32, 4#32, 8#32, 8#32, 4#32]) = false ∧
    decode (unconfigured.send [0x10000000#32, 4#32, 8#32, 8#32, 4#32]).cmd = .incomplete := by decide

theorem witness_HardwareResetEffect : resetAsserted { midByte with resetLine := [true] } = true := by decide

theorem witness_ResetStateValues : ∃ s : State, s = State.afterReset (reference true) exampleTable := ⟨_, rfl⟩

theorem witness_InvariantAtReset : (reference false).wf = true := by decide

theorem witness_StepKeepsInvariant :
    (midByte.send [0x30000014#32]).Inv ∧
    ∃ t, step (midByte.send [0x30000014#32]) = .next t ∧ t.st = .done :=
  ⟨inv_of_leds 1 _ (by decide), _, rfl, by decide⟩

theorem witness_NoStepStops : midByte.Inv ∧ finishedExactFit.Inv ∧ freshEmpty.Inv :=
  ⟨midByte_inv, finishedExactFit_inv, freshEmpty_inv⟩

theorem witness_BufferStaysCanonical : Memory.wf (ready.send [0x20000001#32, 5#32]).fb ∧
    ∃ t, step (ready.send [0x20000001#32, 5#32]) = .next t ∧ t.fb.length = 3 :=
  ⟨by decide, _, rfl, by decide⟩

theorem witness_ParametersFixed : ∃ t, step { midByte with resetLine := [true] } = .next t ∧ t.cfg = .unconfigured :=
  ⟨_, rfl, by decide⟩

theorem witness_UnconfiguredTableUnread : unconfigured.cfg ≠ .ready ∧
    (∃ t, exec (.config 4#32 8#32 8#32 4#32 500#32) unconfigured = .next t ∧ t.cfg = .ready) ∧
    ∃ t, exec (.encode 1#28) unconfigured = .next t ∧ t.cfg = .unconfigured :=
  ⟨by decide, ⟨_, rfl, by decide⟩, _, rfl, by decide⟩

theorem witness_AllocDrawUnread :
    (∀ cs, Instr.submit [] = .submit cs → midByte.cfg ≠ .ready ∨ midByte.inFlight) ∧
    (∃ t, exec (.submit []) midByte = .next t ∧ t.st = .encoding) ∧
    (∀ cs, Instr.encode 1#28 = .submit cs → midByte.cfg ≠ .ready ∨ midByte.inFlight) ∧
    ∃ t, exec (.encode 1#28) midByte = .next t ∧ t.pos = 11 :=
  ⟨fun _ _ => .inr (by decide), ⟨_, rfl, by decide⟩, fun _ _ => .inr (by decide), _, rfl, by decide⟩

theorem witness_ClockReadByConfigOnly :
    (∀ a b c d e, Instr.encode 1#28 ≠ .config a b c d e) ∧
    ∃ t, exec (.encode 1#28) midByte = .next t ∧ t.pos = 11 :=
  ⟨fun _ _ _ _ _ h => Instr.noConfusion h, _, rfl, by decide⟩

end Sys2Proof.Tests
end

section
/-! PROOFS. What every step keeps: the parameters (O49) and, with the closed form of an invocation (R105, R106) as the key
fact, the invariant; from it, that no command and no run stops (O47). -/

namespace Sys2Proof.Proofs

open Sys2Proof.Machine Sys2Proof.Laws

/-! ### the parameters -/

@[simp] theorem drawnBy_params (i : Instr) (s : State) : (drawnBy i s).params = s.params := by
  cases i <;> rfl

theorem exec_params (i : Instr) (s t : State) (h : exec i s = .next t) : t.params = s.params := by
  rcases exec_cases i s t h with ⟨e, -, rfl⟩ | ⟨_, _, _, _, _, -, -, rfl⟩ | ⟨_, _, _, _, _, -, -, -, rfl⟩ |
    ⟨cs, -, -, -, -, -, rfl⟩ | ⟨space, -, -, -, hi⟩ | ⟨-, -, -, rfl⟩
  case inr.inr.inr.inr.inl =>
    obtain ⟨ys, st', f, rfl, -⟩ := invocation_next _ _ _ hi
    simp
  all_goals simp

/-- Settles O49: hardware reset, rest and an illegal header keep the parameters, and so does every command. -/
theorem parametersFixed : Obligations.ParametersFixed := by
  intro s t h
  rcases step_cases s t h with ⟨-, rfl⟩ | ⟨-, -, rfl⟩ | ⟨rest, -, -, rfl⟩ | ⟨i, rest, -, -, h⟩
  · simp
  · simp
  · simp
  · simpa using exec_params i _ t h

/-! ### the words on SYM -/

@[simp] theorem symWords_respond (e : Status) (n : Nat) (s : State) : symWords (respond e n s) = symWords s := by
  simp [symWords, response]

theorem symWords_pushAll (ys : List PulseSymbol) (s : State) :
    symWords (pushAll ys s) = symWords s ++ ys.map PulseSymbol.word := by
  simp [symWords, pushAll, List.filterMap_map]

/-! ### the invariant through the updates that leave the block's registers -/

theorem inv_afterDraw {s : State} (h : s.Inv) : (afterDraw s).Inv := { h with }

theorem inv_afterSample {s : State} (h : s.Inv) : (afterSample s).Inv := { h with }

theorem inv_afterFetch {s : State} (rest : List Word) (h : s.Inv) : (afterFetch rest s).Inv := { h with }

theorem inv_respond {s : State} (e : Status) (n : Nat) (h : s.Inv) : (respond e n s).Inv :=
  { h with stream := by simpa using h.stream }

theorem inv_raise {s : State} (e : Status) (h : s.Inv) : (raise e s).Inv := inv_respond e 0 h

/-- Without a session only the parameters, the table and SYM are left to check. -/
theorem inv_of_idle {s : State} (hp : s.params.wf = true) (hst : s.st = .idle) (hf : s.flags = Flags.noSession)
    (hl : s.len = 0) (hpos : s.pos = 0) (hfb : s.fb = []) (ht : s.cfg = .ready → s.table.valid s.params = true)
    (hs : s.out.map PulseSymbol.word <:+ symWords s) : s.Inv where
  params := hp
  i1 _ := hst
  i2 _ := ⟨hf, hl, hpos⟩
  i3 := by simp [hst]
  i4 := by simp [hst]
  i5 := by simp [hst, hf, Flags.noSession]
  i6 := by simp [hf, Flags.noSession]
  i7 := by simp [hst]
  i8 := ht
  encodingFlags := by simp [hst]
  doneFlags := by simp [hst]
  buffer := by simp [hfb, hl]
  length := ⟨0, by simp [hl]⟩
  stream := hs

theorem inv_hardwareReset {s : State} (h : s.Inv) : (hardwareReset s).Inv :=
  inv_of_idle h.params rfl rfl rfl rfl rfl (by simp) (by simp)

theorem inv_endSession {s : State} (h : s.Inv) : (endSession s).Inv :=
  inv_of_idle h.params rfl rfl rfl rfl rfl h.i8 h.stream

/-- R86: CONFIG writes `cfg` and the table, and only where there is no session. -/
theorem inv_configure {s : State} (h : s.Inv) (hc : s.cfg ≠ .ready) (c : Cfg) (tab : TimingTable)
    (ht : c = .ready → tab.valid s.params = true) : { s with cfg := c, table := tab }.Inv := by
  have hst := h.i1 hc
  obtain ⟨hf, hl, hpos⟩ := h.i2 hst
  have hfb : s.fb = [] := by simpa [hl] using h.buffer
  exact inv_of_idle h.params hst hf hl hpos hfb ht h.stream

/-- R86: no bit of a checked operand is lost, so the table holds the valid configuration the operands named. -/
theorem tableOfOperands_valid (c : Config.Params) (a b d e r : Word)
    (h : validConfig c a.toNat b.toNat d.toNat e.toNat r.toNat = true) : (tableOfOperands a b d e r).valid c = true := by
  have hr := h
  simp only [validConfig, halfPeriodValid, Config.durMax, Bool.and_eq_true, decide_eq_true_eq] at hr
  obtain ⟨⟨⟨⟨⟨⟨ha, hb⟩, hd⟩, he⟩, hrst⟩, -⟩, -⟩ := hr
  simp (disch := omega) only [TimingTable.valid, tableOfOperands, BitVec.toNat_setWidth, Nat.mod_eq_of_lt, h]

/-- R103: a new session, its cursor before the first symbol of the wire bytes. -/
theorem inv_startSession {s : State} (h : s.Inv) (hc : s.cfg = .ready) (cs : List Colour)
    (hl : cs.length ≤ s.params.maxLeds) : (startSession cs s).Inv where
  params := h.params
  i1 := by simp [hc]
  i2 := by simp
  i3 := by
    cases cs <;> simp [Flags.fresh]
  i4 := by simp
  i5 := by simp [Flags.fresh]
  i6 := by simp
  i7 := by simp
  i8 := h.i8
  encodingFlags := by simp
  doneFlags := by simp
  buffer := by
    have hk := Memory.keys_writeFrom (wireBytes cs) 0 [] (by simp)
    simpa [List.range_eq_range'] using hk
  length := ⟨cs.length, rfl, hl⟩
  stream := by simp

/-! ### the closed form of an accepted ENCODE (R105, R106) -/

/-- The bit symbols of the frame the block holds: `theFrame` without its reset symbol. -/
def dataSyms (s : State) : List PulseSymbol := (frameBytes s).flatMap (encodeByte s.table)

theorem theFrame_eq (s : State) : theFrame s = dataSyms s ++ [s.table.symR] := rfl

theorem length_dataSyms_of_inv {s : State} (h : s.Inv) : (dataSyms s).length = 8 * s.len := by
  rw [dataSyms, length_dataSyms, length_frameBytes s h.buffer]

theorem length_theFrame {s : State} (h : s.Inv) : (theFrame s).length = 8 * s.len + 1 := by
  rw [theFrame, length_frameSyms, length_frameBytes s h.buffer]

/-- R105: the symbols an invocation with room for `space` of them pushes. -/
def nextSyms (space : Nat) (s : State) : List PulseSymbol := ((theFrame s).drop s.pos).take space

/-- R101: where an invocation leaves the encoder when its cursor comes to stand at `p` of `8 * len + 1` symbols. -/
def stAfter (len p : Nat) : FrameState :=
  if p < 8 * len then .encoding else if p = 8 * len then .appendingReset else .done

theorem stAfter_of_le {len p : Nat} (h : p ≤ 8 * len) :
    stAfter len p = if p = 8 * len then .appendingReset else .encoding := by
  unfold stAfter
  split
  · rw [if_neg (by omega)]
  · rw [if_pos (by omega), if_pos (by omega)]

/-- R106: the flags an invocation leaves after `n` symbols. -/
def flagsAfter (space n : Nat) (s : State) : Flags :=
  if s.pos + n ≤ 8 * s.len then ⟨false, true, false⟩
  else ⟨true, s.params.exactFitSetsMemFull && decide (n = space), false⟩

/-- `s` after an invocation has pushed `ys` and moved `st` and the flags. -/
def progress (ys : List PulseSymbol) (st : FrameState) (f : Flags) (s : State) : State :=
  { pushAll ys s with st := st, flags := f }

section
variable (ys : List PulseSymbol) (st : FrameState) (f : Flags) (s : State)

@[simp] theorem progress_params : (progress ys st f s).params = s.params := rfl
@[simp] theorem progress_st : (progress ys st f s).st = st := rfl
@[simp] theorem progress_flags : (progress ys st f s).flags = f := rfl
@[simp] theorem progress_len : (progress ys st f s).len = s.len := rfl
@[simp] theorem progress_pos : (progress ys st f s).pos = s.pos + ys.length := rfl

end

/-- R105, R106: what an accepted invocation leaves. -/
def invoked (space : Nat) (s : State) : State :=
  respond .ok (nextSyms space s).length
    (progress (nextSyms space s) (stAfter s.len (s.pos + (nextSyms space s).length))
      (flagsAfter space (nextSyms space s).length s) s)

theorem length_nextSyms {s : State} (h : s.Inv) (space : Nat) :
    (nextSyms space s).length = min space (8 * s.len + 1 - s.pos) := by
  rw [nextSyms, List.length_take, List.length_drop, length_theFrame h]

/-- While a frame is in flight the cursor stands within the data or at its end. -/
theorem pos_le_of_inFlight {s : State} (h : s.Inv) (hin : s.inFlight) : s.pos ≤ 8 * s.len := by
  rcases hin with hst | hst
  · rcases h.i3 hst with hp | ⟨hp, -⟩ <;> omega
  · exact (h.i4 hst).1.le

theorem beginInvocation_flags_of_inFlight {s : State} (h : s.Inv) (hin : s.inFlight) :
    s.flags.beginInvocation = ⟨false, false, false⟩ := by
  rcases hin with hst | hst
  · rcases h.encodingFlags hst with hf | hf <;> rw [hf] <;> rfl
  · rw [(h.i4 hst).2]; rfl

/-- The bit symbols that stage 1 of an invocation pushes (R104). -/
def nextData (space : Nat) (s : State) : List PulseSymbol := ((dataSyms s).drop s.pos).take space

theorem length_nextData {s : State} (h : s.Inv) (space : Nat) :
    (nextData space s).length = min space (8 * s.len - s.pos) := by
  rw [nextData, List.length_take, List.length_drop, length_dataSyms_of_inv h]

theorem bytesDone_pushAll {s : State} (hst : s.st = .encoding) (ys : List PulseSymbol) :
    bytesDone (pushAll ys (beginInvocation s)) =
      progress ys (if s.pos + ys.length = 8 * s.len then .appendingReset else .encoding) s.flags.beginInvocation s := by
  unfold bytesDone
  by_cases hp : s.pos + ys.length = 8 * s.len
  · rw [if_pos (by exact hp), if_pos hp]; rfl
  · rw [if_neg (by exact hp), if_neg hp, ← hst]; rfl

/-- Stage 1 pushes the bit symbols there is room for, none where the cursor stands at the end of the data already. -/
theorem stage1_eq {s : State} (h : s.Inv) (hin : s.inFlight) (space : Nat) :
    stage1 space (beginInvocation s) = some ((nextData space s).length,
      progress (nextData space s)
        (if s.pos + (nextData space s).length = 8 * s.len then .appendingReset else .encoding) ⟨false, false, false⟩ s) := by
  have hf := beginInvocation_flags_of_inFlight h hin
  rcases hin with hst | hst
  · have hpush : pushBits space 0 (beginInvocation s) =
        some ((nextData space s).length, pushAll (nextData space s) (beginInvocation s)) := by
      rw [pushBits_eq space 0 (beginInvocation s) h.buffer, length_nextData h, Nat.zero_add]
      rfl
    rw [stage1, beginInvocation_st, if_pos hst, hpush, Option.map_some, bytesDone_pushAll hst, hf]
  · have hp := (h.i4 hst).1
    have hnil : nextData space s = [] := by
      rw [← List.length_eq_zero_iff, length_nextData h]; omega
    rw [stage1, beginInvocation_st, if_neg (by simp [hst]), hnil, beginInvocation, hf]
    simp [progress, pushAll_nil, hp, ← hst]

/-- The symbols of an invocation are the bit symbols of stage 1, then the reset symbol if there is room for it. -/
theorem nextSyms_eq {s : State} (h : s.Inv) (hin : s.inFlight) (space : Nat) :
    nextSyms space s = nextData space s ++ if 8 * s.len - s.pos < space then [s.table.symR] else [] := by
  have hlen := length_dataSyms_of_inv h
  have hp := pos_le_of_inFlight h hin
  rw [nextSyms, theFrame_eq, List.drop_append_of_le_length (by omega), List.take_append, List.length_drop, hlen,
    nextData]
  split
  · rw [List.take_of_length_le (l := [_]) (by simp; omega)]
  · rw [show space - (8 * s.len - s.pos) = 0 by omega, List.take_zero]

/-- Stage 2 with room left pushes the reset symbol and ends the frame (R104). -/
theorem stage2_progress {space n : Nat} (hn : n < space) (ys : List PulseSymbol) (f : Flags) (s : State) :
    stage2 space (n, progress ys .appendingReset f s) =
      (n + 1, progress (ys ++ [s.table.symR]) .done f.setComplete s) := by
  simp [stage2, progress, hn, pushNext, qPush, pushAll, Nat.add_assoc]

theorem stage2_no_room (n : Nat) (s : State) : stage2 n (n, s) = (n, s) := by
  simp [stage2]

/-- R104, R106: a finished frame sets `memory_full` only where the parameter says so of an exact fit. -/
theorem flowControl_progress_done (space n : Nat) (ys : List PulseSymbol) (s : State) :
    flowControl space n (progress ys .done ⟨true, false, false⟩ s) =
      progress ys .done ⟨true, s.params.exactFitSetsMemFull && decide (n = space), false⟩ s := by
  rw [flowControl, if_neg (by simp)]
  by_cases hfit : s.params.exactFitSetsMemFull = true ∧ n = space
  · rw [if_pos (by exact hfit)]
    simp [progress, hfit, Flags.setMemoryFull]
  · rw [if_neg (by exact hfit)]
    rw [not_and] at hfit
    simpa [progress] using hfit

theorem flowControl_progress_open {st : FrameState} (hst : st ≠ .done) (space n : Nat) (ys : List PulseSymbol)
    (f : Flags) (s : State) : flowControl space n (progress ys st f s) = progress ys st f.setMemoryFull s :=
  if_pos hst

/-- R105, R106: in a state that meets the invariant an invocation reads only bytes that are there, and this is all it
does. -/
theorem invocation_eq {s : State} (h : s.Inv) (hin : s.inFlight) (space : Nat) :
    invocation space s = .next (invoked space s) := by
  have hp := pos_le_of_inFlight h hin
  have hn := length_nextData h space
  have hsyms := nextSyms_eq h hin space
  rw [invocation, stage1_eq h hin]
  by_cases hroom : 8 * s.len - s.pos < space
  · rw [if_pos hroom] at hsyms
    have hend : s.pos + (nextData space s).length = 8 * s.len := by omega
    have hlt : (nextData space s).length < space := by omega
    simp only [if_pos hend, stage2_progress hlt, endInvocation, Flags.setComplete, flowControl_progress_done]
    simp [invoked, hsyms, stAfter, flagsAfter, ← Nat.add_assoc, hend]
  · rw [if_neg hroom, List.append_nil] at hsyms
    have hfull : (nextData space s).length = space := by omega
    have hle : s.pos + space ≤ 8 * s.len := by omega
    have hopen : (if s.pos + space = 8 * s.len then FrameState.appendingReset else .encoding) ≠ .done := by
      split <;> simp
    simp only [hfull, stage2_no_room, endInvocation, flowControl_progress_open hopen]
    simp [invoked, hsyms, hfull, stAfter_of_le hle, flagsAfter, hle, Flags.setMemoryFull]

/-- The symbols pushed up to and with an invocation are those of the frame before its cursor. -/
theorem take_append_nextSyms (space : Nat) (s : State) :
    (theFrame s).take s.pos ++ nextSyms space s = (theFrame s).take (s.pos + (nextSyms space s).length) := by
  rw [List.take_add, nextSyms, List.length_take, ← List.take_eq_take_min]

/-- What an invocation may leave: symbols that continue the frame, with `st` and the flags its cursor allows. -/
theorem inv_progress {s : State} (h : s.Inv) (hin : s.inFlight) {ys : List PulseSymbol} {st : FrameState} {f : Flags}
    (hys : (theFrame s).take s.pos ++ ys = (theFrame s).take (s.pos + ys.length))
    (hcursor : (s.pos + ys.length < 8 * s.len ∧ st = .encoding ∧ f = ⟨false, true, false⟩) ∨
      (s.pos + ys.length = 8 * s.len ∧ st = .appendingReset ∧ f = ⟨false, true, false⟩) ∨
      (s.pos + ys.length = 8 * s.len + 1 ∧ st = .done ∧ (f = ⟨true, false, false⟩ ∨
        (f = ⟨true, true, false⟩ ∧ s.params.exactFitSetsMemFull = true)))) :
    (progress ys st f s).Inv := by
  have hst : s.st ≠ .idle := by rcases hin with hst | hst <;> simp [hst]
  have hcfg : s.cfg = .ready := Decidable.of_not_not fun hc => hst (h.i1 hc)
  have hout : s.out ++ ys = (theFrame s).take (s.pos + ys.length) := by rw [h.i7 hst, hys]
  have hsym : (s.out ++ ys).map PulseSymbol.word <:+ symWords (pushAll ys s) := by
    rw [List.map_append, symWords_pushAll, List.suffix_append_self_iff]
    exact h.stream
  rcases hcursor with ⟨hp, rfl, rfl⟩ | ⟨hp, rfl, rfl⟩ | ⟨hp, rfl, rfl | ⟨rfl, hfit⟩⟩
  all_goals exact {
    params := h.params
    i1 := fun hc => absurd hcfg hc
    i2 := by simp
    i3 := by simp [hp]
    i4 := by simp [hp]
    i5 := by simp [hp]
    i6 := by simp
    i7 := fun _ => hout
    i8 := h.i8
    encodingFlags := by simp
    doneFlags := by simp [*]
    buffer := h.buffer
    length := h.length
    stream := hsym }

/-- R30: an accepted ENCODE keeps the invariant, wherever its cursor comes to stand. -/
theorem inv_invoked {s : State} (h : s.Inv) (hin : s.inFlight) (space : Nat) : (invoked space s).Inv := by
  have hp := pos_le_of_inFlight h hin
  have hn : s.pos + (nextSyms space s).length ≤ 8 * s.len + 1 := by
    rw [length_nextSyms h]; omega
  refine inv_respond _ _ (inv_progress h hin (take_append_nextSyms space s) ?_)
  rcases Nat.lt_trichotomy (s.pos + (nextSyms space s).length) (8 * s.len) with hlt | heq | hgt
  · exact .inl ⟨hlt, by simp [stAfter, hlt], by simp [flagsAfter, hlt.le]⟩
  · exact .inr (.inl ⟨heq, by simp [stAfter, heq], by simp [flagsAfter, heq]⟩)
  · have hst : stAfter s.len (s.pos + (nextSyms space s).length) = .done := by simp [stAfter, hgt.not_gt, hgt.ne']
    refine .inr (.inr ⟨by omega, hst, ?_⟩)
    rw [flagsAfter, if_neg hgt.not_ge]
    cases hfit : s.params.exactFitSetsMemFull && decide ((nextSyms space s).length = space)
    · exact .inl rfl
    · exact .inr ⟨rfl, (Bool.and_eq_true_iff.1 hfit).1⟩

/-! ### commands, steps and runs -/

/-- R16, R130: a command of any state that meets the invariant answers; the only fault is ENCODE's, and it reads no byte that
is absent. -/
theorem exec_next {s : State} (h : s.Inv) (i : Instr) : ∃ t, exec i s = .next t := by
  cases i with
  | config a b c d e =>
    simp only [exec, execConfig]
    repeat' split
    all_goals exact ⟨_, rfl⟩
  | submit cs =>
    simp only [exec, execSubmit]
    repeat' split
    all_goals exact ⟨_, rfl⟩
  | encode space =>
    simp only [exec, execEncode]
    split
    · exact ⟨_, rfl⟩
    · cases hst : s.st
      case idle | done => exact ⟨_, rfl⟩
      case encoding => exact ⟨_, invocation_eq h (.inl hst) _⟩
      case appendingReset => exact ⟨_, invocation_eq h (.inr hst) _⟩
  | txdone =>
    simp only [exec, execTxdone]
    repeat' split
    all_goals exact ⟨_, rfl⟩

theorem inv_drawnBy {s : State} (h : s.Inv) (i : Instr) : (drawnBy i s).Inv := by
  cases i
  case submit => exact inv_afterDraw h
  all_goals exact h

/-- R30: every command keeps the invariant. -/
theorem inv_exec {s t : State} (h : s.Inv) (i : Instr) (hx : exec i s = .next t) : t.Inv := by
  rcases exec_cases i s t hx with ⟨e, -, rfl⟩ | ⟨_, _, _, _, _, -, hc, rfl⟩ | ⟨_, _, _, _, _, -, hc, hv, rfl⟩ |
    ⟨cs, -, hc, -, hl, -, rfl⟩ | ⟨space, -, -, hin, hi⟩ | ⟨-, -, -, rfl⟩
  · exact inv_raise e (inv_drawnBy h i)
  · exact inv_raise _ (inv_configure h (by simp [hc]) .failed s.table (by simp))
  · exact inv_respond _ _ (inv_configure h (by simp [hc]) .ready _ fun _ => tableOfOperands_valid _ _ _ _ _ _ hv)
  · exact inv_respond _ _ (inv_startSession (inv_afterDraw h) hc cs hl)
  · rw [invocation_eq h hin] at hi
    cases hi
    exact inv_invoked h hin _
  · exact inv_respond _ _ (inv_endSession h)

/-- R30: so does every step. -/
theorem inv_step {s t : State} (h : s.Inv) (hx : step s = .next t) : t.Inv := by
  rcases step_cases s t hx with ⟨-, rfl⟩ | ⟨-, -, rfl⟩ | ⟨rest, -, -, rfl⟩ | ⟨i, rest, -, -, hx⟩
  · exact inv_hardwareReset (inv_afterSample h)
  · exact inv_afterSample h
  · exact inv_raise _ (inv_afterFetch rest (inv_afterSample h))
  · exact inv_exec (inv_afterFetch rest (inv_afterSample h)) i hx

theorem step_next {s : State} (h : s.Inv) : ∃ t, step s = .next t := by
  unfold step
  split
  · exact ⟨_, rfl⟩
  · split
    · exact ⟨_, rfl⟩
    · exact ⟨_, rfl⟩
    · exact exec_next (inv_afterFetch _ (inv_afterSample h)) _

/-- By induction on the number of steps: each answers, and in a state that meets the invariant again. -/
theorem run_next (k : Nat) {s : State} (h : s.Inv) : ∃ t, Sys2Proof.core.run k s = .next t ∧ t.Inv := by
  induction k generalizing s with
  | zero => exact ⟨s, rfl, h⟩
  | succ k ih =>
    obtain ⟨u, hu⟩ := step_next h
    obtain ⟨t, ht, hinv⟩ := ih (inv_step h hu)
    refine ⟨t, ?_, hinv⟩
    simpa [Host.Core.run, Sys2Proof.core, hu] using ht

/-- Settles O47: every command answers, the invariant holds along every run, and so no step of one stops. -/
theorem noStepStops : Obligations.NoStepStops :=
  ⟨fun _ i h => exec_next h i, fun k _ h => run_next k h⟩

end Sys2Proof.Proofs
end

section
/-! PROOFS. The state (spec 10_state.md): its values after reset (O43, O44), the invariant there and after every step (O45,
O46), how `cfg` moves (O13), what leaves the Frame Buffer (O23) and the draws (O22) as they were, and who reads the table
before a CONFIG has written it (O50). -/

namespace Sys2Proof.Proofs

open Sys2Proof.Machine Sys2Proof.Laws

/-! ### the state after reset -/

/-- R41: with no frame held no index is readable. -/
theorem memRead_of_len_eq_zero {s : State} (h : s.len = 0) (a : Nat) : memRead s a = none := by
  simp [memRead, h]

theorem bits_noSession : Flags.noSession.bits = 0#3 := by decide

theorem step_of_resetAsserted {s : State} (h : resetAsserted s = true) :
    step s = .next (hardwareReset (afterSample s)) :=
  if_pos h

theorem resetParams_wf : Config.resetParams.wf = true := by
  simp only [Config.Params.wf, Bool.and_eq_true, decide_eq_true_eq]
  exact ⟨⟨by decide, by decide⟩, Config.openMaxLeds.isLt⟩

theorem inv_afterReset {c : Config.Params} (hc : c.wf = true) (tab : TimingTable) : (State.afterReset c tab).Inv :=
  inv_of_idle hc rfl rfl rfl rfl rfl nofun (List.nil_suffix)

/-- Settles O46: the last link of the chain from the single updates over commands to steps. -/
theorem stepKeepsInvariant : Obligations.StepKeepsInvariant :=
  fun _ _ h hx => inv_step h hx

/-- Settles O45: there is no session after reset, and `cfg` is not Ready. -/
theorem invariantAtReset : Obligations.InvariantAtReset :=
  ⟨inv_afterReset resetParams_wf _, fun _ tab hc => inv_afterReset hc tab⟩

/-- Settles O44: the values are those `State.afterReset` writes, and `State.reset` is such a state. -/
theorem resetStateValues : Obligations.ResetStateValues := by
  constructor
  · rintro c tab s rfl
    exact ⟨rfl, rfl, bits_noSession, rfl, rfl, rfl, memRead_of_len_eq_zero rfl⟩
  · exact ⟨Config.resetParams, TimingTable.unspecified 0, rfl, resetParams_wf⟩

/-- Settles O43: the step with reset asserted is `hardwareReset`, whatever stands on CMD. -/
theorem hardwareResetEffect : Obligations.HardwareResetEffect := fun _ h =>
  ⟨_, step_of_resetAsserted h, rfl, rfl, rfl, rfl, rfl, rfl, memRead_of_len_eq_zero rfl, rfl⟩

/-! ### what a command leaves as it was -/

/-- R104: an invocation writes `pos`, `out`, `st`, the flags and the channels alone. -/
theorem invocation_frame {space : Nat} {s t : State} (h : invocation space s = .next t) :
    t.cfg = s.cfg ∧ t.len = s.len ∧ t.fb = s.fb ∧ t.allocDraws = s.allocDraws ∧ t.drawIndex = s.drawIndex := by
  obtain ⟨ys, st', f, rfl, -⟩ := invocation_next space s t h
  exact ⟨rfl, rfl, rfl, rfl, rfl⟩

@[simp] theorem drawnBy_cfg (i : Instr) (s : State) : (drawnBy i s).cfg = s.cfg := by cases i <;> rfl
@[simp] theorem drawnBy_len (i : Instr) (s : State) : (drawnBy i s).len = s.len := by cases i <;> rfl
@[simp] theorem drawnBy_fb (i : Instr) (s : State) : (drawnBy i s).fb = s.fb := by cases i <;> rfl

/-- Only a SUBMIT draws. -/
theorem drawnBy_of_ne_submit {i : Instr} (h : ∀ cs, i ≠ .submit cs) (s : State) : drawnBy i s = s := by
  cases i with
  | submit cs => exact absurd rfl (h cs)
  | config | encode | txdone => rfl

/-! ### `cfg` (R21) -/

/-- R21: a command changes `cfg` only if it is a CONFIG in Unconfigured. -/
theorem exec_cfg {i : Instr} {s t : State} (h : exec i s = .next t) :
    t.cfg = s.cfg ∨ ((∃ a b c d e, i = .config a b c d e) ∧ s.cfg = .unconfigured ∧
      (t.cfg = .ready ∨ t.cfg = .failed)) := by
  rcases exec_cases i s t h with ⟨e, -, rfl⟩ | ⟨a, b, c, d, e, hi, hc, rfl⟩ | ⟨a, b, c, d, e, hi, hc, -, rfl⟩ |
    ⟨cs, -, -, -, -, -, rfl⟩ | ⟨space, -, -, -, hinv⟩ | ⟨-, -, -, rfl⟩
  · exact .inl (by simp)
  · exact .inr ⟨⟨a, b, c, d, e, hi⟩, hc, .inr rfl⟩
  · exact .inr ⟨⟨a, b, c, d, e, hi⟩, hc, .inl rfl⟩
  · exact .inl rfl
  · exact .inl (invocation_frame hinv).1
  · exact .inl rfl

/-- Settles O13: rest and an illegal header keep `cfg`, so either reset was asserted or a CONFIG stands on CMD. -/
theorem configStateMoves : Obligations.ConfigStateMoves := by
  intro s t h hne
  rcases step_cases s t h with ⟨hr, rfl⟩ | ⟨-, -, rfl⟩ | ⟨rest, -, -, rfl⟩ | ⟨i, rest, hr, hd, hx⟩
  · exact .inl ⟨hr, rfl⟩
  · exact absurd rfl hne
  · exact absurd rfl hne
  · rcases exec_cfg hx with hsame | ⟨⟨a, b, c, d, e, rfl⟩, hc, ht⟩
    · exact absurd hsame hne
    · exact .inr ⟨hr, hc, ht, a, b, c, d, e, rest, hd⟩

/-! ### the Frame Buffer (R26, R51) -/

/-- R26, R51: only an accepted SUBMIT and an accepted TXDONE write the Frame Buffer. -/
theorem exec_buffer {i : Instr} {s t : State} (h : exec i s = .next t) :
    (t.len = s.len ∧ t.fb = s.fb) ∨
    (∃ cs, i = .submit cs ∧ ¬ s.inFlight ∧ cs.length ≤ s.params.maxLeds ∧ allocOk s = true) ∨
    (i = .txdone ∧ s.st = .done) := by
  rcases exec_cases i s t h with ⟨e, -, rfl⟩ | ⟨_, _, _, _, _, -, -, rfl⟩ | ⟨_, _, _, _, _, -, -, -, rfl⟩ |
    ⟨cs, hi, -, hf, hl, ha, -⟩ | ⟨space, -, -, -, hinv⟩ | ⟨hi, -, hst, -⟩
  · exact .inl ⟨by simp, by simp⟩
  · exact .inl ⟨rfl, rfl⟩
  · exact .inl ⟨rfl, rfl⟩
  · exact .inr (.inl ⟨cs, hi, hf, hl, ha⟩)
  · obtain ⟨-, hlen, hfb, -⟩ := invocation_frame hinv
    exact .inl ⟨hlen, hfb⟩
  · exact .inr (.inr ⟨hi, hst⟩)

/-- Settles O23: the premises leave neither of the two commands that write the Frame Buffer. -/
theorem frameBufferLatched : Obligations.FrameBufferLatched := by
  intro s t i _ h hsubmit htxdone
  rcases exec_buffer h with ⟨hlen, hfb⟩ | ⟨cs, hi, hf, hl, ha⟩ | ⟨hi, hst⟩
  · exact ⟨hlen, hfb, fun a => by simp only [memRead, hlen, hfb]⟩
  · rcases hsubmit cs hi with hin | hmax | halloc
    · exact absurd hin hf
    · exact absurd hmax hl.not_gt
    · simp [halloc] at ha
  · rcases htxdone hi with he | he <;> simp [he] at hst

/-! ### the draws (R29) -/

/-- R29: what a command does to the draws does not depend on its status. -/
theorem exec_draws {i : Instr} {s t : State} (h : exec i s = .next t) :
    t.allocDraws = (drawnBy i s).allocDraws ∧ t.drawIndex = (drawnBy i s).drawIndex := by
  rcases exec_cases i s t h with ⟨e, -, rfl⟩ | ⟨_, _, _, _, _, rfl, -, rfl⟩ | ⟨_, _, _, _, _, rfl, -, -, rfl⟩ |
    ⟨cs, rfl, -, -, -, -, rfl⟩ | ⟨space, rfl, -, -, hinv⟩ | ⟨rfl, -, -, rfl⟩
  case inr.inr.inr.inr.inl => exact (invocation_frame hinv).2.2.2
  all_goals exact ⟨rfl, rfl⟩

/-- R103: a SUBMIT is answered in every state, whether or not it meets the invariant. -/
theorem exec_submit_next (cs : List Colour) (s : State) : ∃ t, exec (.submit cs) s = .next t := by
  simp only [exec, execSubmit]
  repeat' split
  all_goals exact ⟨_, rfl⟩

/-- Settles O22, from what a command does to the draws whatever its status. -/
theorem eachSubmitTakesOneDraw : Obligations.EachSubmitTakesOneDraw := by
  constructor
  · intro s cs
    obtain ⟨t, ht⟩ := exec_submit_next cs s
    exact ⟨t, ht, exec_draws ht⟩
  · intro s t i hi h
    simpa only [drawnBy_of_ne_submit hi] using exec_draws h

/-! ### the table before CONFIG (R22, R31) -/

/-- R144 steps 2 and 3: outside Ready the three session commands are refused at once. -/
theorem exec_of_cfgStatus {i : Instr} {s : State} {e : Status} (hi : ∀ a b c d r, i ≠ .config a b c d r)
    (h : cfgStatus s = some e) : exec i s = .next (raise e (drawnBy i s)) := by
  cases i with
  | config a b c d r => exact absurd rfl (hi a b c d r)
  | submit cs => simp only [exec, execSubmit, h, drawnBy]
  | encode space => simp only [exec, execEncode, h, drawnBy]
  | txdone => simp only [exec, execTxdone, h, drawnBy]

theorem cfg_of_ne_ready {c : Cfg} (h : c ≠ .ready) : c = .unconfigured ∨ c = .failed := by
  cases c with
  | ready => exact absurd rfl h
  | unconfigured => exact .inl rfl
  | failed => exact .inr rfl

theorem cfgStatus_of_cfg_ne_ready {s : State} (h : s.cfg ≠ .ready) : ∃ e, cfgStatus s = some e := by
  rcases cfg_of_ne_ready h with hs | hs <;> simp [cfgStatus, hs]

theorem drawnBy_with_table (i : Instr) (s : State) (tab : TimingTable) :
    drawnBy i { s with table := tab } = { drawnBy i s with table := tab } := by
  cases i <;> rfl

/-- R86: outside Ready a CONFIG reads `cfg` and the parameters, and no timing register. -/
theorem exec_config_of_failed (a b c d e : Word) {s : State} (h : s.cfg = .failed) :
    exec (.config a b c d e) s = .next (raise .configError s) := by
  simp only [exec, execConfig, h]

theorem exec_config_of_unconfigured (a b c d e : Word) {s : State} (h : s.cfg = .unconfigured) :
    exec (.config a b c d e) s =
      if validConfig s.params a.toNat b.toNat c.toNat d.toNat e.toNat then
        .next (respond .ok 0 { s with table := tableOfOperands a b c d e, cfg := .ready })
      else .next (raise .configError { s with cfg := .failed }) := by
  simp only [exec, execConfig, h]

/-- R86: CONFIG outside Ready, with other timing registers. -/
theorem exec_config_with_table {a b c d e : Word} {s t : State} (tab : TimingTable) (hc : s.cfg ≠ .ready)
    (h : exec (.config a b c d e) s = .next t) :
    exec (.config a b c d e) { s with table := tab } = .next (if t.cfg = .ready then t else { t with table := tab }) := by
  rcases cfg_of_ne_ready hc with hs | hs
  · rw [exec_config_of_unconfigured a b c d e hs] at h
    rw [exec_config_of_unconfigured a b c d e (by exact hs)]
    by_cases hv : validConfig s.params a.toNat b.toNat c.toNat d.toNat e.toNat = true
    · rw [if_pos hv] at h
      cases h
      rw [if_pos hv, if_pos (by rfl)]
    · rw [if_neg hv] at h
      cases h
      rw [if_neg hv, if_neg (by simp)]
      rfl
  · rw [exec_config_of_failed a b c d e hs] at h
    cases h
    rw [exec_config_of_failed a b c d e (by exact hs), if_neg (by exact hc)]
    rfl

/-- Settles O50: a session command is refused at once, and CONFIG overwrites the registers or leaves them. -/
theorem unconfiguredTableUnread : Obligations.UnconfiguredTableUnread := by
  intro s t i tab hc h
  by_cases hi : ∀ a b c d r, i ≠ .config a b c d r
  · obtain ⟨e, he⟩ := cfgStatus_of_cfg_ne_ready hc
    rw [exec_of_cfgStatus hi he] at h
    cases h
    rw [exec_of_cfgStatus hi (by exact he), drawnBy_with_table, if_neg (by simpa using hc)]
    rfl
  · push Not at hi
    obtain ⟨a, b, c, d, e, rfl⟩ := hi
    exact exec_config_with_table tab hc h

end Sys2Proof.Proofs
end

section
/-! PROOFS. Memory (spec 20_memory.md): the step runs the command at the front of CMD (O40), every step keeps the Frame
Buffer in canonical form (O48), and an ENCODE reads a bounded window of it (O27). -/

namespace Sys2Proof.Proofs

open Sys2Proof.Machine Sys2Proof.Laws

/-! ### the command at the front of CMD (R49, R71) -/

theorem step_of_command {s : State} {i : Instr} {rest : List Word} (hr : resetAsserted s = false)
    (hd : decode s.cmd = .command i rest) : step s = exec i (afterFetch rest (afterSample s)) := by
  simp only [step, fetch, hr, hd, Bool.false_eq_true, if_false]

/-- Settles O40: the words consumed and the sample read are all that a step does before the command. -/
theorem stepRunsDecodedCommand : Obligations.StepRunsDecodedCommand :=
  fun _ _ _ hr hd => step_of_command hr hd

/-! ### the canonical form (R40, R41) -/

/-- R103, R123: a command leaves the Frame Buffer, loads an empty one with wire bytes in order, or empties it. -/
theorem exec_fb_wf {i : Instr} {s t : State} (hwf : Memory.wf s.fb) (h : exec i s = .next t) : Memory.wf t.fb := by
  rcases exec_cases i s t h with ⟨e, -, rfl⟩ | ⟨_, _, _, _, _, -, -, rfl⟩ | ⟨_, _, _, _, _, -, -, -, rfl⟩ |
    ⟨cs, -, -, -, -, -, rfl⟩ | ⟨space, -, -, -, hinv⟩ | ⟨-, -, -, rfl⟩
  · simpa only [raise_fb, drawnBy_fb] using hwf
  · exact hwf
  · exact hwf
  · exact Memory.writeFrom_wf (wireBytes cs) 0 [] List.Pairwise.nil
  · obtain ⟨-, -, hfb, -⟩ := invocation_frame hinv
    rwa [hfb]
  · exact List.Pairwise.nil

/-- Settles O48: hardware reset empties the Frame Buffer, rest and an illegal header leave it, and every command keeps the
form. -/
theorem bufferStaysCanonical : Obligations.BufferStaysCanonical := by
  intro s t hwf h
  rcases step_cases s t h with ⟨-, rfl⟩ | ⟨-, -, rfl⟩ | ⟨rest, -, -, rfl⟩ | ⟨i, rest, -, -, hx⟩
  · exact List.Pairwise.nil
  · exact hwf
  · exact hwf
  · exact exec_fb_wf (by exact hwf) hx

/-! ### what an ENCODE reads (R47, R126) -/

/-- `s` with the Frame Buffer `m` in place of its own. -/
def withBuffer (m : Memory) (s : State) : State := { s with fb := m }

section
variable (m : Memory) (s : State)

@[simp] theorem withBuffer_st : (withBuffer m s).st = s.st := rfl
@[simp] theorem withBuffer_len : (withBuffer m s).len = s.len := rfl
@[simp] theorem withBuffer_pos : (withBuffer m s).pos = s.pos := rfl

@[simp] theorem pushNext_withBuffer (y : PulseSymbol) : pushNext y (withBuffer m s) = withBuffer m (pushNext y s) := rfl

@[simp] theorem bytesDone_withBuffer : bytesDone (withBuffer m s) = withBuffer m (bytesDone s) := by
  by_cases hp : s.pos = 8 * s.len
  · rw [bytesDone, bytesDone, if_pos (by exact hp), if_pos hp]; rfl
  · rw [bytesDone, bytesDone, if_neg (by exact hp), if_neg hp]

/-- R104: stage 2 pushes the reset symbol, which depends on no byte. -/
theorem stage2_withBuffer (space n : Nat) :
    stage2 space (n, withBuffer m s) = Prod.map id (withBuffer m) (stage2 space (n, s)) := by
  by_cases hroom : s.st = .appendingReset ∧ n < space
  · rw [stage2, stage2, if_pos (by exact hroom), if_pos (by exact hroom)]; rfl
  · rw [stage2, stage2, if_neg (by exact hroom), if_neg (by exact hroom)]; rfl

theorem flowControl_withBuffer (space n : Nat) :
    flowControl space n (withBuffer m s) = withBuffer m (flowControl space n s) := by
  by_cases hst : s.st ≠ .done
  · rw [flowControl, flowControl, if_pos (by exact hst), if_pos hst]; rfl
  · by_cases hfit : s.params.exactFitSetsMemFull = true ∧ n = space
    · rw [flowControl, flowControl, if_neg (by exact hst), if_neg hst, if_pos (by exact hfit), if_pos hfit]; rfl
    · rw [flowControl, flowControl, if_neg (by exact hst), if_neg hst, if_neg (by exact hfit), if_neg hfit]

theorem endInvocation_withBuffer (space : Nat) (r : Nat × State) :
    endInvocation space (Prod.map id (withBuffer m) r) = withBuffer m (endInvocation space r) := by
  simp only [endInvocation, Prod.map_fst, Prod.map_snd, id, flowControl_withBuffer]
  rfl

end

/-- The two Frame Buffers hold the same at every byte that the `k` symbol positions from `s.pos` on are read from (R96). -/
def AgreeAhead (k : Nat) (m : Memory) (s : State) : Prop :=
  ∀ p, s.pos ≤ p → p < s.pos + k → Memory.read m (p / 8) = Memory.read s.fb (p / 8)

/-- `k` successive positions, wherever in a byte they begin, lie within `ceil(k / 8) + 1` bytes. -/
theorem agreeAhead_of_window {k : Nat} {m : Memory} {s : State}
    (h : ∀ a, s.pos / 8 ≤ a → a < s.pos / 8 + (k + 7) / 8 + 1 → Memory.read m a = Memory.read s.fb a) :
    AgreeAhead k m s := fun p hlo hhi => h (p / 8) (by omega) (by omega)

/-- R96: the symbol at a position depends on the one byte it is read from. -/
theorem frameSym_withBuffer {m : Memory} {s : State} {p : Nat} (h : Memory.read m (p / 8) = Memory.read s.fb (p / 8)) :
    frameSym (withBuffer m s) p = frameSym s p := by
  have hread : memRead (withBuffer m s) (p / 8) = memRead s (p / 8) := if_congr Iff.rfl h rfl
  rw [frameSym, hread]
  rfl

/-- By induction on the room left: each turn reads the symbol at the cursor and moves the cursor by one (R104). -/
theorem pushBits_withBuffer {m : Memory} (room n : Nat) {s : State} (h : AgreeAhead room m s) :
    pushBits room n (withBuffer m s) = (pushBits room n s).map (Prod.map id (withBuffer m)) := by
  induction room generalizing n s with
  | zero => rfl
  | succ room ih =>
    have hsym := frameSym_withBuffer (h s.pos le_rfl (by omega))
    simp only [pushBits, withBuffer_pos, withBuffer_len, hsym]
    by_cases hp : s.pos < 8 * s.len
    · rw [if_pos hp, if_pos hp]
      cases frameSym s s.pos with
      | none => rfl
      | some y =>
        have hnext : AgreeAhead room m (pushNext y s) := fun p hlo hhi =>
          h p (by simp at hlo; omega) (by simp at hhi; omega)
        exact ih (n + 1) hnext
    · rw [if_neg hp, if_neg hp]
      rfl

/-- R104: stage 1 in an invocation with room for `space` symbols. -/
theorem stage1_withBuffer {m : Memory} {space : Nat} {s : State} (h : AgreeAhead space m s) :
    stage1 space (withBuffer m s) = (stage1 space s).map (Prod.map id (withBuffer m)) := by
  by_cases hst : s.st = .encoding
  · rw [stage1, stage1, if_pos (by exact hst), if_pos hst, pushBits_withBuffer space 0 h, Option.map_map, Option.map_map]
    congr 1
    funext r
    simp
  · rw [stage1, stage1, if_neg (by exact hst), if_neg hst]
    rfl

theorem invocation_withBuffer {m : Memory} {space : Nat} {s t : State} (h : AgreeAhead space m s)
    (hi : invocation space s = .next t) : invocation space (withBuffer m s) = .next (withBuffer m t) := by
  have hstage : stage1 space (beginInvocation (withBuffer m s)) =
      (stage1 space (beginInvocation s)).map (Prod.map id (withBuffer m)) := stage1_withBuffer (s := beginInvocation s) h
  rw [invocation] at hi ⊢
  rw [hstage]
  cases hr : stage1 space (beginInvocation s) with
  | none => rw [hr] at hi; cases hi
  | some r =>
    rw [hr] at hi
    cases hi
    rw [Option.map_some, ← endInvocation_withBuffer, ← stage2_withBuffer]
    rfl

/-- R144: a refused ENCODE reads no byte, and an accepted one is an invocation. -/
theorem execEncode_withBuffer {m : Memory} {space : BitVec 28} {s t : State} (h : AgreeAhead space.toNat m s)
    (hx : execEncode space s = .next t) : execEncode space (withBuffer m s) = .next (withBuffer m t) := by
  have hcfg : cfgStatus (withBuffer m s) = cfgStatus s := rfl
  simp only [execEncode, hcfg, withBuffer_st] at hx ⊢
  cases hc : cfgStatus s with
  | some e => rw [hc] at hx; cases hx; rfl
  | none =>
    rw [hc] at hx
    cases hst : s.st <;> rw [hst] at hx
    case idle | done => cases hx; rfl
    case encoding | appendingReset => exact invocation_withBuffer h hx

/-- Settles O27: the positions an ENCODE can read lie within the window, and what it does commutes with exchanging the rest
of the Frame Buffer. -/
theorem encodeReadsBoundedWindow : Obligations.EncodeReadsBoundedWindow :=
  fun _ _ _ _ hwindow hx => execEncode_withBuffer (agreeAhead_of_window hwindow) hx

end Sys2Proof.Proofs
end

section
/-! PROOFS. The words on CMD (spec 30_encoding.md section 2): what the decoder reads as a command, as a relation between
words and commands (O1, O2, O4), what it reads as illegal (O3), and the command of a table word (O41). -/

namespace Sys2Proof.Proofs

open Sys2Proof.Machine Sys2Proof.Laws

/-! ### words and their fields as numbers -/

/-- Fields side by side, as a number. -/
theorem toNat_append_eq_mul_add {m n : Nat} (x : BitVec m) (y : BitVec n) :
    (x ++ y).toNat = x.toNat * 2 ^ n + y.toNat := by
  rw [BitVec.toNat_append, ← Nat.shiftLeft_add_eq_or_of_lt y.isLt, Nat.shiftLeft_eq]

theorem toNat_extractLsb'_eq_div_mod {n : Nat} (start len : Nat) (x : BitVec n) :
    (x.extractLsb' start len).toNat = x.toNat / 2 ^ start % 2 ^ len := by
  rw [BitVec.extractLsb'_toNat, Nat.shiftRight_eq_div_pow]

/-- R61: a header is its two fields. -/
theorem headerWord_fields (h : Word) : headerWord (opField h) (argField h) = h := by
  have hjoin : h.extractLsb' (0 + 28) 4 ++ h.extractLsb' 0 28 = h.extractLsb' 0 (4 + 28) :=
    BitVec.extractLsb'_append_extractLsb'_eq_extractLsb' rfl
  exact hjoin.trans BitVec.extractLsb'_eq_self

theorem toNat_opField (h : Word) : (opField h).toNat = h.toNat / 2 ^ 28 := by
  rw [opField, toNat_extractLsb'_eq_div_mod]
  exact Nat.mod_eq_of_lt (by omega)

theorem toNat_argField (h : Word) : (argField h).toNat = h.toNat % 2 ^ 28 := by
  rw [argField, toNat_extractLsb'_eq_div_mod, pow_zero, Nat.div_one]

/-! ### colours (R63) -/

theorem colourOfWord_colourWord (c : Colour) : colourOfWord (colourWord c) = c := by
  obtain ⟨r, g, b⟩ := c
  simp only [colourOfWord, colourWord, Colour.mk.injEq, ← BitVec.toNat_inj, toNat_extractLsb'_eq_div_mod,
    toNat_append_eq_mul_add]
  omega

/-- Writing a colour word back clears the bits R63 ignores. -/
theorem colourWord_colourOfWord (w : Word) : colourWord (colourOfWord w) = w &&& 0x00FFFFFF#32 := by
  have hmask : w.toNat &&& 0x00FFFFFF = w.toNat % 2 ^ 24 := Nat.and_two_pow_sub_one_eq_mod w.toNat 24
  simp only [← BitVec.toNat_inj, colourWord, colourOfWord, toNat_append_eq_mul_add, toNat_extractLsb'_eq_div_mod,
    BitVec.toNat_and, BitVec.toNat_ofNat, hmask]
  omega

/-- A colour is bits 23:0 of its word. -/
theorem colourOfWord_congr {v w : Word} (h : v.toNat % 2 ^ 24 = w.toNat % 2 ^ 24) : colourOfWord v = colourOfWord w := by
  simp only [colourOfWord, Colour.mk.injEq, ← BitVec.toNat_inj, toNat_extractLsb'_eq_div_mod]
  omega

/-- R63: the colours are the next `n` words, if as many have come. -/
theorem takeColours_eq_some_iff (n : Nat) (ws rest : List Word) (cs : List Colour) :
    takeColours n ws = some (cs, rest) ↔ ∃ ops, ws = ops ++ rest ∧ ops.length = n ∧ cs = ops.map colourOfWord := by
  induction n generalizing ws cs with
  | zero =>
    rw [takeColours]
    constructor
    · rintro ⟨⟩
      exact ⟨[], rfl, rfl, rfl⟩
    · rintro ⟨ops, rfl, hlen, rfl⟩
      rw [List.length_eq_zero_iff.1 hlen]
      rfl
  | succ n ih =>
    cases ws with
    | nil => simp [takeColours]
    | cons w ws =>
      simp only [takeColours]
      constructor
      · intro h
        split at h
        · cases h
        · rename_i cs' rest' hws
          cases h
          obtain ⟨ops, rfl, rfl, rfl⟩ := (ih ws cs').1 hws
          exact ⟨w :: ops, rfl, rfl, rfl⟩
      · rintro ⟨ops, hws, hlen, rfl⟩
        obtain ⟨v, ops, rfl⟩ := List.exists_cons_of_length_eq_add_one hlen
        rw [List.cons_append] at hws
        obtain ⟨rfl, rfl⟩ := List.cons.inj hws
        rw [(ih _ _).2 ⟨ops, rfl, by simpa using hlen, rfl⟩]
        rfl

/-! ### commands -/

/-- R61 to R65: the header `h` with the operand words `ops` is the command. -/
def Spells (h : Word) (ops : List Word) : Instr → Prop
  | .config t0h t0l t1h t1l trst => opField h = 1#4 ∧ argField h = 0#28 ∧ ops = [t0h, t0l, t1h, t1l, trst]
  | .submit cs => opField h = 2#4 ∧ ops.length = (argField h).toNat ∧ cs = ops.map colourOfWord
  | .encode space => opField h = 3#4 ∧ argField h = space ∧ ops = []
  | .txdone => opField h = 4#4 ∧ argField h = 0#28 ∧ ops = []

/-- Everything the decoder can read as a command. -/
theorem spells_of_decode {ws rest : List Word} {i : Instr} (hd : decode ws = .command i rest) :
    ∃ h ops, ws = h :: (ops ++ rest) ∧ Spells h ops i := by
  cases ws with
  | nil => cases hd
  | cons h ws =>
    simp only [decode] at hd
    split at hd
    next hop =>
      split at hd
      next harg =>
        split at hd
        next a b c d e _ => cases hd; exact ⟨h, [a, b, c, d, e], rfl, hop, harg, rfl⟩
        next => cases hd
      next => cases hd
    next =>
    split at hd
    next hop =>
      split at hd
      next => cases hd
      next cs _ hcs =>
        cases hd
        obtain ⟨ops, rfl, hlen, rfl⟩ := (takeColours_eq_some_iff _ _ _ _).1 hcs
        exact ⟨h, ops, rfl, hop, hlen, rfl⟩
    next =>
    split at hd
    next hop => cases hd; exact ⟨h, [], rfl, hop, rfl, rfl⟩
    next =>
    split at hd
    next hop =>
      split at hd
      next harg => cases hd; exact ⟨h, [], rfl, hop, harg, rfl⟩
      next => cases hd
    next => cases hd

theorem decode_of_spells {h : Word} {ops : List Word} {i : Instr} (hs : Spells h ops i) (rest : List Word) :
    decode (h :: (ops ++ rest)) = .command i rest := by
  cases i with
  | config a b c d e =>
    obtain ⟨hop, harg, rfl⟩ := hs
    simp [decode, hop, harg]
  | submit cs =>
    obtain ⟨hop, hlen, hcs⟩ := hs
    simp [decode, hop, (takeColours_eq_some_iff _ (ops ++ rest) rest cs).2 ⟨ops, rfl, hlen, hcs⟩]
  | encode space =>
    obtain ⟨hop, harg, rfl⟩ := hs
    simp [decode, hop, harg]
  | txdone =>
    obtain ⟨hop, harg, rfl⟩ := hs
    simp [decode, hop, harg]

/-- R71: a command has as many operand words as its header announces. -/
theorem length_of_spells {h : Word} {ops : List Word} {i : Instr} (hs : Spells h ops i) :
    ops.length = operandWords h := by
  cases i with
  | config a b c d e =>
    obtain ⟨hop, harg, rfl⟩ := hs
    simp [operandWords, hop, harg]
  | submit cs =>
    obtain ⟨hop, hlen, -⟩ := hs
    simpa [operandWords, hop] using hlen
  | encode space | txdone =>
    obtain ⟨hop, -, rfl⟩ := hs
    simp [operandWords, hop]

/-- R63: the count of colours has 28 bits. -/
theorem wf_of_spells {h : Word} {ops : List Word} {i : Instr} (hs : Spells h ops i) : i.wf = true := by
  cases i with
  | submit cs =>
    obtain ⟨-, hlen, rfl⟩ := hs
    simp only [Instr.wf, List.length_map, hlen, decide_eq_true_eq]
    exact (argField h).isLt
  | config | encode | txdone => rfl

/-- R63: operand words without the bits that are ignored. -/
def meaningfulBits (ops : List Word) : Instr → List Word
  | .submit _ => ops.map fun w => w &&& 0x00FFFFFF#32
  | _ => ops

theorem encode_of_spells {h : Word} {ops : List Word} {i : Instr} (hs : Spells h ops i) :
    encode i = h :: meaningfulBits ops i := by
  cases i with
  | config a b c d e =>
    obtain ⟨hop, harg, rfl⟩ := hs
    rw [encode, ← hop, ← harg, headerWord_fields]
    rfl
  | submit cs =>
    obtain ⟨hop, hlen, rfl⟩ := hs
    have hcolours : (ops.map colourOfWord).map colourWord = ops.map (· &&& 0x00FFFFFF#32) := by
      rw [List.map_map]
      exact List.map_congr_left fun w _ => colourWord_colourOfWord w
    rw [encode, hcolours, List.length_map, hlen, BitVec.ofNat_toNat, BitVec.setWidth_eq, ← hop, headerWord_fields]
    rfl
  | encode space =>
    obtain ⟨hop, rfl, rfl⟩ := hs
    rw [encode, ← hop, headerWord_fields]
    rfl
  | txdone =>
    obtain ⟨hop, harg, rfl⟩ := hs
    rw [encode, ← hop, ← harg, headerWord_fields]
    rfl

/-- The encoder's words of a well-formed command are that command. -/
theorem spells_encode {i : Instr} (h : i.wf = true) : ∃ hd ops, encode i = hd :: ops ∧ Spells hd ops i := by
  cases i with
  | config a b c d e => exact ⟨_, _, rfl, opField_headerWord _ _, argField_headerWord _ _, rfl⟩
  | submit cs =>
    have hfit : cs.length < 2 ^ 28 := of_decide_eq_true h
    refine ⟨_, _, rfl, opField_headerWord _ _, ?_, ?_⟩
    · rw [argField_headerWord, BitVec.toNat_ofNat, Nat.mod_eq_of_lt hfit, List.length_map]
    · simp [Function.comp_def, colourOfWord_colourWord]
  | encode space => exact ⟨_, _, rfl, opField_headerWord _ _, argField_headerWord _ _, rfl⟩
  | txdone => exact ⟨_, _, rfl, opField_headerWord _ _, argField_headerWord _ _, rfl⟩

/-- Settles O1: the encoder's words are the command's, and the decoder reads the command from such words. -/
theorem decodeEncodeRoundTrip : Obligations.DecodeEncodeRoundTrip := by
  intro i rest hwf
  obtain ⟨h, ops, he, hs⟩ := spells_encode hwf
  rw [he]
  exact decode_of_spells hs rest

/-- Settles O2, from what the decoder can read as a command. -/
theorem decodedWordsAreTheCommand : Obligations.DecodedWordsAreTheCommand := by
  intro ws rest i hd
  obtain ⟨h, ops, hws, hs⟩ := spells_of_decode hd
  exact ⟨wf_of_spells hs, h, ops, hws, length_of_spells hs, encode_of_spells hs⟩

/-- Settles O4, by evaluating the decoder on the five samples. -/
theorem sampleWordsDecode : Obligations.SampleWordsDecode := by
  refine ⟨?_, ?_, ?_, ?_, ?_⟩
  all_goals decide

/-! ### illegal headers (R67) -/

/-- R67: a header is illegal for its op, or for the arg of CONFIG and TXDONE; what follows it makes no difference. -/
theorem decode_eq_illegal_iff (h : Word) (ops rest : List Word) :
    decode (h :: ops) = .illegal rest ↔ rest = ops ∧
      (opField h ≠ 1#4 ∧ opField h ≠ 2#4 ∧ opField h ≠ 3#4 ∧ opField h ≠ 4#4 ∨
        (opField h = 1#4 ∨ opField h = 4#4) ∧ argField h ≠ 0#28) := by
  simp only [decode]
  split
  next hop =>
    split
    next harg => split <;> simp [hop, harg]
    next harg => simp [hop, harg, @eq_comm _ rest]
  next hop1 =>
  split
  next hop => split <;> simp [hop]
  next hop2 =>
  split
  next hop => simp [hop]
  next hop3 =>
  split
  next hop =>
    split
    next harg => simp [hop, harg]
    next harg => simp [hop, harg, @eq_comm _ rest]
  next hop4 => simp [hop1, hop2, hop3, hop4, @eq_comm _ rest]

/-- R67 in numbers. -/
theorem illegalHeader_iff (h : Word) :
    (opField h ≠ 1#4 ∧ opField h ≠ 2#4 ∧ opField h ≠ 3#4 ∧ opField h ≠ 4#4 ∨
        (opField h = 1#4 ∨ opField h = 4#4) ∧ argField h ≠ 0#28) ↔
      h.toNat / 2 ^ 28 = 0 ∨ 5 ≤ h.toNat / 2 ^ 28 ∨
        ((h.toNat / 2 ^ 28 = 1 ∨ h.toNat / 2 ^ 28 = 4) ∧ h.toNat % 2 ^ 28 ≠ 0) := by
  simp only [ne_eq, ← BitVec.toNat_inj, toNat_opField, toNat_argField, BitVec.toNat_ofNat]
  omega

theorem step_of_illegal {s : State} {rest : List Word} (hr : resetAsserted s = false)
    (hd : decode s.cmd = .illegal rest) :
    step s = .next (raise .illegalCommand (afterFetch rest (afterSample s))) := by
  simp only [step, fetch, hr, hd, Bool.false_eq_true, if_false]

/-- Settles O3: the decoder looks at the header's two fields alone, and the answer is one `raise`. -/
theorem illegalHeaderRefused : Obligations.IllegalHeaderRefused := by
  refine ⟨fun h ops rest => ?_, fun s rest hr hd => step_of_illegal hr hd, fun v w h => colourOfWord_congr h⟩
  rw [decode_eq_illegal_iff, illegalHeader_iff]

/-! ### table words (R71, log entry 13) -/

/-- A table word of at most 32 bits is the header of its instruction, with zero operand words. -/
theorem tableWords_of_le {nbits : Nat} (hn : nbits ≤ 32) (w : Nat) :
    tableWords nbits w = BitVec.ofNat 32 w :: List.replicate (operandWords (BitVec.ofNat 32 w)) 0#32 := by
  have h1 : max 1 ((nbits + 31) / 32) = 1 := by omega
  rw [tableWords, h1, Nat.add_sub_cancel_left]
  rfl

/-- Such words hold the instruction and nothing after it, so they are read the same way before any others. -/
theorem decode_tableWords_append {nbits w : Nat} {i : Instr} (hn : nbits ≤ 32) (hd : decodeTableWord nbits w = some i)
    (more : List Word) : decode (tableWords nbits w ++ more) = .command i more := by
  have hcommand : ∃ rest, decode (tableWords nbits w) = .command i rest := by
    unfold decodeTableWord at hd
    split at hd
    next rest hi => cases hd; exact ⟨rest, hi⟩
    next => cases hd
    next => cases hd
  obtain ⟨rest, hrest⟩ := hcommand
  obtain ⟨h, ops, hws, hs⟩ := spells_of_decode hrest
  rw [tableWords_of_le hn] at hws ⊢
  obtain ⟨rfl, hops⟩ := List.cons.inj hws
  have hnil : rest = [] := by
    have hlen := congrArg List.length hops
    rw [List.length_replicate, List.length_append, length_of_spells hs] at hlen
    exact List.length_eq_zero_iff.1 (by omega)
  rw [hops, hnil, List.append_nil]
  exact decode_of_spells hs more

/-- Settles O41: the step reads the sample and the words that were put in front, and then runs `i` in `s`. -/
theorem placedWordRunsNext : Obligations.PlacedWordRunsNext :=
  fun _ _ _ _ hn hd => step_of_command rfl (decode_tableWords_append hn hd _)

end Sys2Proof.Proofs
end

section
/-! PROOFS. The words on RSP and SYM (spec 30_encoding.md sections 1 and 3): the layouts of a response (O6) and of a symbol
with the durations a symbol can have (O5), and the one response of every command (O7). -/

namespace Sys2Proof.Proofs

open Sys2Proof.Machine Sys2Proof.Laws

@[simp] theorem drawnBy_out (i : Instr) (s : State) : (drawnBy i s).out = s.out := by cases i <;> rfl
@[simp] theorem drawnBy_chan (i : Instr) (s : State) : (drawnBy i s).chan = s.chan := by cases i <;> rfl

/-! ### a response (R68) -/

/-- R25: the three flag bits as a number. -/
theorem toNat_flagBits (f : Flags) : f.bits.toNat = f.reset.toNat * 4 + f.memoryFull.toNat * 2 + f.complete.toNat := by
  simp only [Flags.bits, toNat_append_eq_mul_add, BitVec.toNat_ofBool]
  omega

theorem toNat_rsp0Word (e : Status) (f : Flags) :
    (rsp0Word e f.bits).toNat =
      e.code.toNat * 2 ^ 28 + f.reset.toNat * 4 + f.memoryFull.toNat * 2 + f.complete.toNat := by
  simp only [rsp0Word, toNat_append_eq_mul_add, toNat_flagBits, BitVec.toNat_ofNat]
  omega

theorem toNat_rsp1Word {n : Nat} (hn : n < 2 ^ 28) : (rsp1Word n).toNat = n := by
  simp only [rsp1Word, toNat_append_eq_mul_add, BitVec.toNat_ofNat, Nat.mod_eq_of_lt hn]
  omega

/-- R132: code 0 is OK alone. -/
theorem code_eq_zero_iff (e : Status) : e.code = 0#4 ↔ e = .ok := by
  cases e <;> decide

/-- Settles O6: each word is its fields side by side. -/
theorem responseWordLayout : Obligations.ResponseWordLayout :=
  ⟨toNat_rsp0Word, fun _ hn => toNat_rsp1Word hn, code_eq_zero_iff⟩

/-! ### a symbol (R70) -/

theorem toNat_symbolWord (y : PulseSymbol) :
    y.word.toNat = y.l1.toNat * 2 ^ 31 + y.d1.toNat * 2 ^ 16 + y.l0.toNat * 2 ^ 15 + y.d0.toNat := by
  simp only [PulseSymbol.word, toNat_append_eq_mul_add, BitVec.toNat_ofBool]
  omega

/-- R70: what the durations of an emitted symbol can be. -/
def DurationsInRange (y : PulseSymbol) : Prop :=
  0 < y.d0.toNat ∧ y.d0.toNat ≤ 32767 ∧ 0 < y.d1.toNat ∧ y.d1.toNat ≤ 32767

/-- R83 V1 and V2: what a valid configuration says of the registers one by one. -/
theorem positive_of_valid {c : Config.Params} {t : TimingTable} (h : t.valid c = true) :
    (0 < t.t0h.toNat ∧ 0 < t.t0l.toNat ∧ 0 < t.t1h.toNat ∧ 0 < t.t1l.toNat) ∧ 2 ≤ t.trst.toNat ∧ t.trst.toNat ≤ 65534 := by
  simp only [TimingTable.valid, validConfig, halfPeriodValid, Config.durMax, Bool.and_eq_true, decide_eq_true_eq] at h
  omega

/-- R70, R85: no template of a valid configuration has a half of no ticks. -/
theorem durationsInRange_of_template {c : Config.Params} {t : TimingTable} (h : t.valid c = true) {y : PulseSymbol}
    (hy : y = t.sym0 ∨ y = t.sym1 ∨ y = t.symR) : DurationsInRange y := by
  obtain ⟨⟨h0h, h0l, h1h, h1l⟩, hrst, hrst'⟩ := positive_of_valid h
  rcases hy with rfl | rfl | rfl
  · exact ⟨h0h, by omega, h0l, by omega⟩
  · exact ⟨h1h, by omega, h1l, by omega⟩
  · simp only [DurationsInRange, TimingTable.symR, BitVec.toNat_ofNat]
    omega

/-- R23, R87: a command adds to `out` only templates of the table, and only in Ready. -/
theorem exec_out {i : Instr} {s t : State} (h : exec i s = .next t) {y : PulseSymbol} (hy : y ∈ t.out) :
    y ∈ s.out ∨ (s.cfg = .ready ∧ (y = s.table.sym0 ∨ y = s.table.sym1 ∨ y = s.table.symR)) := by
  rcases exec_cases i s t h with ⟨e, -, rfl⟩ | ⟨_, _, _, _, _, -, -, rfl⟩ | ⟨_, _, _, _, _, -, -, -, rfl⟩ |
    ⟨cs, -, -, -, -, -, rfl⟩ | ⟨space, -, hc, -, hinv⟩ | ⟨-, -, -, rfl⟩
  · exact .inl (by simpa using hy)
  · exact .inl hy
  · exact .inl hy
  · cases hy
  · obtain ⟨ys, st', f, rfl, -, htemplates, -⟩ := invocation_next _ _ _ hinv
    rcases List.mem_append.1 (show y ∈ s.out ++ ys from hy) with hold | hnew
    · exact .inl hold
    · exact .inr ⟨hc, htemplates y hnew⟩
  · exact .inl hy

/-- R70: under the invariant the templates are those of a valid configuration. -/
theorem step_out_durations {s t : State} (hinv : s.Inv) (h : step s = .next t) {y : PulseSymbol} (hy : y ∈ t.out) :
    y ∈ s.out ∨ DurationsInRange y := by
  rcases step_cases s t h with ⟨-, rfl⟩ | ⟨-, -, rfl⟩ | ⟨rest, -, -, rfl⟩ | ⟨i, rest, -, -, hx⟩
  · cases hy
  · exact .inl hy
  · exact .inl hy
  · exact (exec_out hx hy).imp id fun ⟨hc, htemplate⟩ => durationsInRange_of_template (hinv.i8 hc) htemplate

/-- Settles O5: the word is its four fields side by side, and what a step emits are templates of a valid configuration. -/
theorem symbolWordLayout : Obligations.SymbolWordLayout := by
  refine ⟨toNat_symbolWord, ?_, fun _ _ hinv h _ hy => step_out_durations hinv h hy⟩
  rintro t rfl
  decide

/-! ### one response for every command (R60, R68) -/

/-- R60, R68: `t` has more on its channels than `s` by some symbols and then one response with their count; only an ENCODE
answered OK may have symbols, and `out` grows by the same. -/
def AnswersOnce (i : Instr) (s t : State) : Prop :=
  ∃ (ys : List PulseSymbol) (e : Status),
    t.chan = s.chan ++ (ys.map fun y => Emission.sym y.word) ++ [response e ys.length t.flags] ∧
    ys.length < 2 ^ 28 ∧
    (ys ≠ [] → e = .ok ∧ (∃ space, i = .encode space) ∧ t.out = s.out ++ ys)

/-- A response alone, after changes that push nothing. -/
theorem answersOnce_respond_zero (i : Instr) {s u : State} (e : Status) (hchan : u.chan = s.chan) :
    AnswersOnce i s (respond e 0 u) :=
  ⟨[], e, by simp [hchan], by decide, fun h => absurd rfl h⟩

theorem answersOnce_invocation {space : BitVec 28} {s t : State} (h : invocation space.toNat s = .next t) :
    AnswersOnce (.encode space) s t := by
  obtain ⟨ys, st', f, rfl, hlen, -⟩ := invocation_next _ _ _ h
  exact ⟨ys, .ok, rfl, hlen.trans_lt space.isLt, fun _ => ⟨rfl, ⟨space, rfl⟩, rfl⟩⟩

/-- Settles O7: an accepted ENCODE pushes at most its 28-bit `space` of symbols, and every other command only responds. -/
theorem everyCommandAnswersOnce : Obligations.EveryCommandAnswersOnce := by
  intro s t i h
  rcases exec_cases i s t h with ⟨e, -, rfl⟩ | ⟨_, _, _, _, _, -, -, rfl⟩ | ⟨_, _, _, _, _, -, -, -, rfl⟩ |
    ⟨cs, -, -, -, -, -, rfl⟩ | ⟨space, rfl, -, -, hinv⟩ | ⟨-, -, -, rfl⟩
  · exact answersOnce_respond_zero i e (drawnBy_chan i s)
  · exact answersOnce_respond_zero i .configError rfl
  · exact answersOnce_respond_zero i .ok rfl
  · exact answersOnce_respond_zero i .ok rfl
  · exact answersOnce_invocation hinv
  · exact answersOnce_respond_zero i .ok rfl

end Sys2Proof.Proofs
end

section
/-! PROOFS. The pseudo-instructions DRAIN and FRAME (spec 30_encoding.md section 5): repeated invocations finish the frame
(O34), and one whole refresh pushes exactly its symbols (O35). -/

namespace Sys2Proof.Proofs

open Sys2Proof.Machine Sys2Proof.Laws

/-! ### what stays and what grows along the invocations of one frame -/

/-- R108: `t` holds the same frame as `s`, and the symbols pushed between them stand in `out` and on SYM alike. -/
def ContinuesFrame (s t : State) : Prop :=
  theFrame t = theFrame s ∧ ∃ ys : List PulseSymbol, t.out = s.out ++ ys ∧
    symWords t = symWords s ++ ys.map PulseSymbol.word

theorem ContinuesFrame.trans {s t u : State} (hst : ContinuesFrame s t) (htu : ContinuesFrame t u) :
    ContinuesFrame s u := by
  obtain ⟨hframe, ys, hout, hsym⟩ := hst
  obtain ⟨hframe', zs, hout', hsym'⟩ := htu
  exact ⟨hframe'.trans hframe, ys ++ zs, by rw [hout', hout, List.append_assoc],
    by rw [hsym', hsym, List.map_append, List.append_assoc]⟩

theorem continuesFrame_invoked (space : Nat) (s : State) : ContinuesFrame s (invoked space s) :=
  ⟨rfl, nextSyms space s, rfl, (symWords_respond _ _ _).trans (symWords_pushAll _ _)⟩

theorem pos_invoked {s : State} (h : s.Inv) (space : Nat) :
    (invoked space s).pos = s.pos + min space (8 * s.len + 1 - s.pos) :=
  congrArg (s.pos + ·) (length_nextSyms h space)

theorem cfg_ready_of_st_ne_idle {s : State} (h : s.Inv) (hst : s.st ≠ .idle) : s.cfg = .ready :=
  Decidable.of_not_not fun hc => hst (h.i1 hc)

/-- R104: an ENCODE of a frame in flight is accepted. -/
theorem execEncode_of_inFlight {s : State} (h : s.Inv) (hin : s.inFlight) (space : BitVec 28) :
    execEncode space s = .next (invoked space.toNat s) := by
  have hc : s.cfg = .ready := cfg_ready_of_st_ne_idle h (by rcases hin with hst | hst <;> simp [hst])
  rw [← invocation_eq h hin]
  rcases hin with hst | hst <;> simp only [execEncode, cfgStatus, hc, hst]

theorem stAfter_cases (len p : Nat) :
    (stAfter len p = .encoding ∨ stAfter len p = .appendingReset) ∨ stAfter len p = .done := by
  unfold stAfter
  split_ifs <;> simp

/-- R100, R101: an invocation leaves a session, which is in flight unless it is Done. -/
theorem inFlight_invoked_of_ne_done {space : Nat} {s : State} (h : (invoked space s).st ≠ .done) :
    (invoked space s).inFlight :=
  (stAfter_cases _ _).resolve_right h

/-- R109: what has been pushed of a finished frame is all of it. -/
theorem out_of_done {s : State} (h : s.Inv) (hst : s.st = .done) : s.out = theFrame s := by
  rw [h.i7 (by simp [hst]), h.i5.2 hst, ← length_theFrame h, List.take_length]

/-! ### DRAIN (R73, R113) -/

/-- By induction on the repetitions left: an ENCODE with room for a symbol either ends the frame or moves the cursor on. -/
theorem drain_finishes {space : BitVec 28} (hspace : 1 ≤ space.toNat) (fuel : Nat) {s : State} (h : s.Inv)
    (hin : s.inFlight) (hfuel : frameLength s ≤ s.pos + fuel) :
    ∃ t, drain space fuel s = .next t ∧ t.Inv ∧ t.st = .done ∧ ContinuesFrame s t := by
  have hpos := pos_le_of_inFlight h hin
  unfold frameLength at hfuel
  induction fuel generalizing s with
  | zero => omega
  | succ fuel ih =>
    have hinv := inv_invoked h hin space.toNat
    simp only [drain, execEncode_of_inFlight h hin]
    by_cases hdone : (invoked space.toNat s).st = .done
    · rw [if_pos (hinv.i5.1.1 hdone)]
      exact ⟨_, rfl, hinv, hdone, continuesFrame_invoked _ s⟩
    · rw [if_neg fun hc => hdone (hinv.i5.1.2 hc)]
      have hin' := inFlight_invoked_of_ne_done hdone
      have hadvance : s.pos + 1 ≤ (invoked space.toNat s).pos := by
        rw [pos_invoked h]; omega
      have hlen : (invoked space.toNat s).len = s.len := rfl
      obtain ⟨t, ht, htinv, htdone, hcont⟩ := ih hinv hin' (by omega) (pos_le_of_inFlight hinv hin')
      exact ⟨t, ht, htinv, htdone, (continuesFrame_invoked _ s).trans hcont⟩

/-- Settles O34: the cursor moves on by at least one in each repetition. -/
theorem drainFinishesFrame : Obligations.DrainFinishesFrame := by
  intro s space fuel h hin hspace hfuel
  obtain ⟨t, ht, hinv, hdone, hframe, -⟩ := drain_finishes hspace fuel h hin (by omega)
  exact ⟨t, ht, hdone, hinv.i5.1.1 hdone, (out_of_done hinv hdone).trans hframe⟩

/-! ### FRAME (R73) -/

theorem execSubmit_of_accepted {s : State} {cs : List Colour} (hc : s.cfg = .ready) (hin : ¬ s.inFlight)
    (hlen : cs.length ≤ s.params.maxLeds) (hdraw : allocOk s = true) :
    execSubmit cs s = .next (respond .ok 0 (startSession cs (afterDraw s))) := by
  have hfits : ¬ (s.params.maxLeds < cs.length ∨ allocOk s = false) := by simp [hlen, hdraw]
  simp only [execSubmit, cfgStatus, hc, if_neg hin, if_neg hfits]

theorem execTxdone_of_done {s : State} (hc : s.cfg = .ready) (hst : s.st = .done) :
    execTxdone s = .next (respond .ok 0 (endSession s)) := by
  simp [execTxdone, cfgStatus, hc, hst]

/-- R103: the frame of an accepted SUBMIT is that of the wire bytes. -/
theorem theFrame_startSession (cs : List Colour) (s : State) :
    theFrame (startSession cs s) = frameSyms s.table (wireBytes cs) :=
  congrArg (frameSyms s.table) (Memory.values_writeFrom (wireBytes cs) 0 [] (by simp))

/-- Settles O35: from the accepted SUBMIT on `out` and SYM grow alike, and at its end `out` is the whole frame. -/
theorem wholeRefresh : Obligations.WholeRefresh := by
  intro s cs space fuel h hc hin hlen hdraw hspace hfuel
  have hu : (respond .ok 0 (startSession cs (afterDraw s))).Inv :=
    inv_respond _ _ (inv_startSession (inv_afterDraw h) hc cs hlen)
  obtain ⟨t, ht, hinv, hdone, hframe, ys, hout, hsym⟩ :=
    drain_finishes hspace fuel hu (.inl rfl) (show 8 * (3 * cs.length) + 1 ≤ 0 + fuel by omega)
  have hall : t.out = frameSyms s.table (wireBytes cs) :=
    ((out_of_done hinv hdone).trans hframe).trans (theFrame_startSession cs (afterDraw s))
  have hys : ys = frameSyms s.table (wireBytes cs) := hout.symm.trans hall
  refine ⟨respond .ok 0 (endSession t), ?_, rfl, hall, ?_⟩
  · rw [runFrame, execSubmit_of_accepted hc hin hlen hdraw]
    simp only [ht]
    exact execTxdone_of_done (cfg_ready_of_st_ne_idle hinv (by simp [hdone])) hdone
  · have hstart : symWords (respond .ok 0 (startSession cs (afterDraw s))) = symWords s := symWords_respond _ _ _
    rw [symWords_respond, ← hys, ← hstart, ← hsym]
    rfl

end Sys2Proof.Proofs
end

section
/-! PROOFS. The Pulse Timing Table and CONFIG (spec 40_timing_table.md): the checks of a configuration (O8, O9), CONFIG
itself (O10), the reset symbol (O11), the table once Ready (O12) and how long a frame lasts (O20). -/

namespace Sys2Proof.Proofs

open Sys2Proof.Machine Sys2Proof.Laws

/-! ### the checks of a configuration (R83, R84) -/

theorem cast_absDiff (a b : Nat) : (absDiff a b : Int) = |(a : Int) - b| := by
  unfold absDiff
  split
  · rw [abs_sub_comm, abs_of_nonneg] <;> omega
  · rw [abs_of_nonneg] <;> omega

theorem inTol_iff (c : Config.Params) (p : Nat) : inTol c p = true ↔
    |(p : Int) * 1000000000 - (c.periodNomNs : Int) * c.tickHz| ≤ (c.tolNs : Int) * c.tickHz := by
  have hdiff := cast_absDiff (p * 1000000000) (c.periodNomNs * c.tickHz)
  push_cast at hdiff
  rw [inTol, decide_eq_true_eq, ← hdiff]
  exact_mod_cast Iff.rfl

/-- Settles O8: the difference of two naturals is that of the integers, and the reference values leave three periods. -/
theorem toleranceCheckMeaning : Obligations.ToleranceCheckMeaning := by
  refine ⟨inTol_iff, fun c p hhz hnom htol => ?_⟩
  rw [inTol_iff, hhz, hnom, htol, abs_le]
  omega

theorem halfPeriodValid_iff (d : Nat) : halfPeriodValid d = true ↔ 1 ≤ d ∧ d ≤ 32767 := by
  simp only [halfPeriodValid, Bool.and_eq_true, decide_eq_true_eq]

/-- Settles O9: the check is the conjunction of its four parts. -/
theorem validConfigMeaning : Obligations.ValidConfigMeaning := by
  intro c t0h t0l t1h t1l trst
  simp only [validConfig, halfPeriodValid_iff, Bool.and_eq_true, decide_eq_true_eq, Bool.not_eq_true',
    Bool.and_eq_false_iff, decide_eq_false_iff_not, Config.durMax, ne_eq, Prod.mk.injEq, not_and_or, and_assoc]

/-! ### CONFIG (R86) -/

@[simp] theorem drawnBy_flags (i : Instr) (s : State) : (drawnBy i s).flags = s.flags := by cases i <;> rfl
@[simp] theorem drawnBy_table (i : Instr) (s : State) : (drawnBy i s).table = s.table := by cases i <;> rfl

theorem exec_config_of_ready (a b c d e : Word) {s : State} (h : s.cfg = .ready) :
    exec (.config a b c d e) s = .next (raise .alreadyConfigured s) := by
  simp only [exec, execConfig, h]

/-- R133, R144 step 2: in Failed every command is refused at once. -/
theorem exec_of_failed (i : Instr) {s : State} (h : s.cfg = .failed) :
    exec i s = .next (raise .configError (drawnBy i s)) := by
  cases i with
  | config a b c d e => exact exec_config_of_failed a b c d e h
  | submit | encode | txdone => exact exec_of_cfgStatus nofun (by simp only [cfgStatus, h])

/-- R86 d, e: a valid operand fits its register, so no bit of it is lost. -/
theorem toNat_tableOfOperands {c : Config.Params} {t0h t0l t1h t1l trst : Word}
    (h : validConfig c t0h.toNat t0l.toNat t1h.toNat t1l.toNat trst.toNat = true) :
    (tableOfOperands t0h t0l t1h t1l trst).t0h.toNat = t0h.toNat ∧
    (tableOfOperands t0h t0l t1h t1l trst).t0l.toNat = t0l.toNat ∧
    (tableOfOperands t0h t0l t1h t1l trst).t1h.toNat = t1h.toNat ∧
    (tableOfOperands t0h t0l t1h t1l trst).t1l.toNat = t1l.toNat ∧
    (tableOfOperands t0h t0l t1h t1l trst).trst.toNat = trst.toNat := by
  obtain ⟨⟨h0h, h0l, h1h, h1l⟩, hrst, -, -⟩ := (validConfigMeaning ..).1 h
  simp only [tableOfOperands, BitVec.toNat_setWidth]
  omega

/-- R30 I1, I2: before a successful CONFIG there is no session, so the flags are 000. -/
theorem flags_of_cfg_ne_ready {s : State} (h : s.Inv) (hc : s.cfg ≠ .ready) : s.flags = Flags.noSession :=
  (h.i2 (h.i1 hc)).1

/-- Settles O10, by the value of `cfg` and, in Unconfigured, by the check of the operands. -/
theorem configCommandEffect : Obligations.ConfigCommandEffect := by
  intro s t0h t0l t1h t1l trst
  refine ⟨exec_config_of_failed t0h t0l t1h t1l trst, exec_config_of_ready t0h t0l t1h t1l trst,
    fun hc hv => ⟨?_, fun i u hu => ⟨_, exec_of_failed i hu, ?_, ?_⟩⟩, fun hc hv => ?_, flags_of_cfg_ne_ready⟩
  · rw [exec_config_of_unconfigured _ _ _ _ _ hc, hv]
    rfl
  · rw [raise_cfg, drawnBy_cfg, hu]
  · rw [raise_chan, drawnBy_chan, drawnBy_flags]
  · obtain ⟨h0h, h0l, h1h, h1l, hrst⟩ := toNat_tableOfOperands hv
    rw [exec_config_of_unconfigured _ _ _ _ _ hc, if_pos hv]
    exact ⟨_, rfl, h0h, h0l, h1h, h1l, hrst, rfl⟩

/-! ### the reset symbol (R85) -/

/-- R85: with `TRST` up to 65534 neither half is cut to its 15 bits. -/
theorem toNat_symR_halves {t : TimingTable} (h : t.trst.toNat ≤ 65534) :
    t.symR.d1.toNat = t.trst.toNat / 2 ∧ t.symR.d0.toNat = t.trst.toNat - t.trst.toNat / 2 := by
  simp only [TimingTable.symR, BitVec.toNat_ofNat]
  omega

/-- Settles O11, from the values of the two halves. -/
theorem resetSymbolSplit : Obligations.ResetSymbolSplit := by
  intro t hlow hhigh
  obtain ⟨hd1, hd0⟩ := toNat_symR_halves hhigh
  refine ⟨rfl, rfl, hd1, hd0, ?_⟩
  omega

/-! ### the table once Ready (R87) -/

/-- R86, R87: only a CONFIG in Unconfigured writes the table. -/
theorem exec_table {i : Instr} {s t : State} (hc : s.cfg = .ready) (h : exec i s = .next t) : t.table = s.table := by
  rcases exec_cases i s t h with ⟨e, -, rfl⟩ | ⟨_, _, _, _, _, -, hu, -⟩ | ⟨_, _, _, _, _, -, hu, -⟩ |
    ⟨cs, -, -, -, -, -, rfl⟩ | ⟨space, -, -, -, hinv⟩ | ⟨-, -, -, rfl⟩
  · rw [raise_table, drawnBy_table]
  · simp [hc] at hu
  · simp [hc] at hu
  · rfl
  · obtain ⟨ys, st', f, rfl, -⟩ := invocation_next _ _ _ hinv
    rfl
  · rfl

theorem exec_cfg_of_ready {i : Instr} {s t : State} (hc : s.cfg = .ready) (h : exec i s = .next t) : t.cfg = .ready := by
  rcases exec_cfg h with hsame | ⟨-, hu, -⟩
  · rw [hsame, hc]
  · simp [hc] at hu

/-- R26, R41: what `MemRead` answers at every index is all there is to know of the bytes. -/
theorem frameBytes_congr {s t : State} (hs : s.Inv) (ht : t.Inv) (h : ∀ a, memRead s a = memRead t a) :
    frameBytes s = frameBytes t :=
  List.ext_getElem? fun a => by rw [← memRead_eq s hs.buffer, ← memRead_eq t ht.buffer, h]

/-- Settles O12: rest and an illegal header keep the table and `out`, a command in Ready keeps the table and adds templates
of it, and the symbols of a finished frame are those of its table and bytes. -/
theorem timingTableImmutable : Obligations.TimingTableImmutable := by
  constructor
  · intro s t hc hr h
    rcases step_cases s t h with ⟨hr', -⟩ | ⟨-, -, rfl⟩ | ⟨rest, -, -, rfl⟩ | ⟨i, rest, -, -, hx⟩
    · simp [hr] at hr'
    · exact ⟨rfl, hc, fun _ hy => .inl hy⟩
    · exact ⟨rfl, hc, fun _ hy => .inl hy⟩
    · have hc' : (afterFetch rest (afterSample s)).cfg = .ready := hc
      exact ⟨(exec_table hc' hx).trans rfl, exec_cfg_of_ready hc' hx, fun _ hy => (exec_out hx hy).imp_right And.right⟩
  · intro s t hs ht hsd htd htable _ hread
    rw [out_of_done hs hsd, out_of_done ht htd, theFrame, theFrame, htable, frameBytes_congr hs ht hread]

/-! ### how long a frame lasts (R88, R89) -/

theorem length_wave (y : PulseSymbol) : y.wave.length = y.ticks := by
  simp [PulseSymbol.wave, PulseSymbol.ticks]

theorem length_waveOf_cons (y : PulseSymbol) (ys : List PulseSymbol) :
    (waveOf (y :: ys)).length = y.ticks + (waveOf ys).length := by
  rw [waveOf, List.flatMap_cons, List.length_append, length_wave, waveOf]

theorem waveOf_append (ys zs : List PulseSymbol) : waveOf (ys ++ zs) = waveOf ys ++ waveOf zs :=
  List.flatMap_append

/-- R90: the template of one bit. -/
def template (t : TimingTable) (bit : Bool) : PulseSymbol := if bit then t.sym1 else t.sym0

/-- R91: the bits of a byte in the order they are sent. -/
def sentBits (b : Byte) : List Bool := (List.range 8).map fun k => b.getLsbD (7 - k)

theorem encodeByte_eq_map (t : TimingTable) (b : Byte) : encodeByte t b = (sentBits b).map (template t) := rfl

theorem dataSyms_eq_map (t : TimingTable) (bs : List Byte) :
    bs.flatMap (encodeByte t) = (bs.flatMap sentBits).map (template t) := by
  rw [List.map_flatMap, funext (encodeByte_eq_map t)]

theorem length_sentBits (bs : List Byte) : (bs.flatMap sentBits).length = 8 * bs.length := by
  simp [sentBits, Nat.mul_comm]

/-- By induction on the bits: each lasts as long as its template. -/
theorem length_waveOf_map_template (t : TimingTable) (bits : List Bool) :
    (waveOf (bits.map (template t))).length = bits.count false * t.sym0.ticks + bits.count true * t.sym1.ticks := by
  induction bits with
  | nil => simp [waveOf]
  | cons bit bits ih =>
    rw [List.map_cons, length_waveOf_cons, ih]
    cases bit with
    | false =>
      rw [template, if_neg Bool.false_ne_true, List.count_cons_self, List.count_cons_of_ne Bool.false_ne_true]
      ring
    | true =>
      rw [template, if_pos rfl, List.count_cons_self, List.count_cons_of_ne Bool.false_ne_true.symm]
      ring

/-- R85, R89: the halves of the reset symbol add up to `TRST`. -/
theorem ticks_symR {t : TimingTable} (h : t.trst.toNat ≤ 65534) : t.symR.ticks = t.trst.toNat := by
  obtain ⟨hd1, hd0⟩ := toNat_symR_halves h
  rw [PulseSymbol.ticks, hd0, hd1]
  omega

/-- Settles O20: a frame is one template for each bit, and then the reset symbol. -/
theorem frameDuration : Obligations.FrameDuration := by
  intro t bs z hrst hz
  have hzeros : (bs.flatMap sentBits).count false = z := hz.symm
  have hones : (bs.flatMap sentBits).count true = 8 * bs.length - z := by
    have hsum := List.count_false_add_count_true (bs.flatMap sentBits)
    rw [length_sentBits] at hsum
    omega
  refine ⟨rfl, rfl, ticks_symR hrst, ?_⟩
  calc (waveOf (frameSyms t bs)).length
      = (waveOf ((bs.flatMap sentBits).map (template t))).length + (waveOf [t.symR]).length := by
        rw [frameSyms, waveOf_append, List.length_append, dataSyms_eq_map]
    _ = z * t.sym0.ticks + (8 * bs.length - z) * t.sym1.ticks + t.trst.toNat := by
        rw [length_waveOf_map_template, hzeros, hones, length_waveOf_cons, ticks_symR hrst]
        rfl

end Sys2Proof.Proofs
end

section
/-! PROOFS. The Byte-to-Pulse Translator, the channel reordering and the symbol sequence of a frame (spec
41_byte_translator.md): one byte (O15, O16), the wire bytes (O17), the frame (O18) and the symbol at the cursor (O19). -/

namespace Sys2Proof.Proofs

open Sys2Proof.Machine Sys2Proof.Laws

/-! ### one bit, one byte (R90, R91, R93) -/

/-- R90: the two readings of `b[7 - k]`, as a bit of the register and by division. -/
theorem bitSym_eq_div_mod (t : TimingTable) (b : Byte) (k : Nat) :
    bitSym t b k = if b.toNat / 2 ^ (7 - k) % 2 = 1 then t.sym1 else t.sym0 := by
  have hbit : b.getLsbD (7 - k) = decide (b.toNat / 2 ^ (7 - k) % 2 = 1) := Nat.testBit_eq_decide_div_mod_eq
  simp only [bitSym, hbit, decide_eq_true_eq]

/-- Settles O15, symbol by symbol. -/
theorem byteToSymbols : Obligations.ByteToSymbols := fun t b =>
  ⟨length_encodeByte t b, fun k hk => by rw [encodeByte_getElem? t b k hk, bitSym_eq_div_mod]⟩

/-- R93: where the templates differ, a bit is read back from which of them was sent. -/
theorem template_eq_sym1_iff {t : TimingTable} (h : t.sym0 ≠ t.sym1) (bit : Bool) :
    template t bit = t.sym1 ↔ bit = true := by
  cases bit with
  | false => exact iff_of_false h Bool.false_ne_true
  | true => exact iff_of_true rfl rfl

theorem map_eq_sym1_encodeByte {t : TimingTable} (h : t.sym0 ≠ t.sym1) (b : Byte) :
    (encodeByte t b).map (fun y => decide (y = t.sym1)) = sentBits b := by
  rw [encodeByte_eq_map, List.map_map]
  refine List.map_id'' (fun bit => ?_) _
  simp only [Function.comp_apply, template_eq_sym1_iff h, Bool.decide_eq_true]

/-- Bit `i` of a byte is the one sent at place `7 - i`. -/
theorem sentBits_injective : Function.Injective sentBits := by
  intro b c h
  have hbits : ∀ k ∈ List.range 8, b.getLsbD (7 - k) = c.getLsbD (7 - k) := List.map_inj_left.1 h
  refine BitVec.eq_of_getLsbD_eq fun i hi => ?_
  have hplace : 7 - (7 - i) = i := by omega
  simpa only [hplace] using hbits (7 - i) (List.mem_range.2 (by omega))

/-- R83 V4. -/
theorem sym0_ne_sym1_of_valid {c : Config.Params} {t : TimingTable} (h : t.valid c = true) : t.sym0 ≠ t.sym1 := by
  obtain ⟨-, -, -, hdiffer⟩ := (validConfigMeaning ..).1 h
  intro heq
  have hhigh : t.t0h = t.t1h := congrArg PulseSymbol.d0 heq
  have hlow : t.t0l = t.t1l := congrArg PulseSymbol.d1 heq
  exact hdiffer (by rw [hhigh, hlow])

/-- Settles O16: equal symbols give equal bits back, and the bits are the byte. -/
theorem byteReconstruction : Obligations.ByteReconstruction := by
  refine ⟨fun t h => ⟨map_eq_sym1_encodeByte h, fun b c hbc => sentBits_injective ?_⟩, fun _ _ => sym0_ne_sym1_of_valid⟩
  rw [← map_eq_sym1_encodeByte h, hbc, map_eq_sym1_encodeByte h]

/-! ### from colours to wire bytes (R94) -/

theorem wireBytes_cons (c : Colour) (cs : List Colour) : wireBytes (c :: cs) = c.g :: c.r :: c.b :: wireBytes cs := rfl

/-- By induction on the colours: place `j` of LED `i` is wire byte `3i + j`. -/
theorem wireBytes_getElem? (cs : List Colour) (i : Nat) {j : Nat} (hj : j < 3) :
    (wireBytes cs)[3 * i + j]? = (cs[i]?).bind fun c => (Colour.wire c)[j]? := by
  induction cs generalizing i with
  | nil => rfl
  | cons c cs ih =>
    cases i with
    | zero => interval_cases j <;> rfl
    | succ i =>
      rw [wireBytes_cons, show 3 * (i + 1) + j = 3 * i + j + 1 + 1 + 1 by omega]
      simpa only [List.getElem?_cons_succ] using ih i

/-- Settles O17: the three places of an LED are its green, red and blue. -/
theorem wireByteOrder : Obligations.WireByteOrder := by
  refine fun cs => ⟨length_wireBytes cs, fun i => ?_⟩
  simp only [Option.map_eq_bind]
  exact ⟨wireBytes_getElem? cs i (j := 0) (by decide), wireBytes_getElem? cs i (by decide),
    wireBytes_getElem? cs i (by decide)⟩

/-! ### the symbols of a frame (R95) -/

theorem frameSyms_getElem?_of_lt (t : TimingTable) {bs : List Byte} {p : Nat} (hp : p < 8 * bs.length) :
    (frameSyms t bs)[p]? = (bs.flatMap (encodeByte t))[p]? :=
  List.getElem?_append_left (by rwa [length_dataSyms])

theorem frameSyms_getElem?_last (t : TimingTable) (bs : List Byte) :
    (frameSyms t bs)[8 * bs.length]? = some t.symR := by
  rw [frameSyms, ← length_dataSyms t bs, List.getElem?_concat_length]

/-- R95: before the last place stands a bit symbol, which begins high where the reset symbol begins low. -/
theorem frameSyms_getElem?_eq_symR_iff (t : TimingTable) (bs : List Byte) (p : Nat) :
    (frameSyms t bs)[p]? = some t.symR ↔ p = 8 * bs.length := by
  refine ⟨fun h => ?_, fun h => h ▸ frameSyms_getElem?_last t bs⟩
  have hin : p < 8 * bs.length + 1 := length_frameSyms t bs ▸ (List.getElem?_eq_some_iff.1 h).1
  by_contra hne
  rw [frameSyms_getElem?_of_lt t (by omega)] at h
  have hhigh : t.symR.l0 = true := dataSyms_l0 t bs _ (List.mem_of_getElem? h)
  simp [symR_l0] at hhigh

/-- Settles O18: place `8j + k` lies in byte `j`, at its symbol `k`. -/
theorem frameSymbolSequence : Obligations.FrameSymbolSequence := by
  refine fun t bs => ⟨length_frameSyms t bs, frameSyms_getElem?_eq_symR_iff t bs, fun j k hk hj => ?_⟩
  have hbyte : (8 * j + k) / 8 = j := by omega
  have hplace : (8 * j + k) % 8 = k := by omega
  rw [frameSyms_getElem?_of_lt t (by omega), dataSyms_getElem?, hbyte, hplace, Option.map_eq_bind]
  simp only [encodeByte_getElem? t _ k hk, Function.comp_def]

/-! ### the symbol at the cursor (R96) -/

theorem frameSym_last (s : State) : frameSym s (8 * s.len) = some s.table.symR := by
  rw [frameSym, if_neg (Nat.lt_irrefl _), if_pos rfl]

/-- R26, R41: every index below `L` has a byte. -/
theorem memRead_of_lt {s : State} (h : s.Inv) {a : Nat} (ha : a < s.len) : ∃ b, memRead s a = some b := by
  rw [← length_frameBytes s h.buffer] at ha
  exact ⟨_, (memRead_eq s h.buffer a).trans (List.getElem?_eq_getElem ha)⟩

/-- R96: up to the reset symbol the cursor walks the frame. -/
theorem frameSym_eq_getElem?_theFrame {s : State} (h : s.Inv) {p : Nat} (hp : p ≤ 8 * s.len) :
    frameSym s p = (theFrame s)[p]? := by
  have hlen := length_frameBytes s h.buffer
  rcases hp.lt_or_eq with hlt | rfl
  · rw [frameSym_data s h.buffer p hlt, theFrame, frameSyms_getElem?_of_lt _ (by rwa [hlen])]
  · rw [frameSym_last, theFrame, ← hlen, frameSyms_getElem?_last]

/-- Settles O19: the frame's symbol, and what it is before and at the last place. -/
theorem cursorSymbol : Obligations.CursorSymbol := by
  refine fun s h p hp => ⟨frameSym_eq_getElem?_theFrame h hp, fun hlt => ?_, fun hlast => hlast ▸ frameSym_last s⟩
  obtain ⟨b, hb⟩ := memRead_of_lt h (show p / 8 < s.len by omega)
  exact ⟨b, hb, by rw [frameSym, if_pos hlt, hb, Option.map_some]⟩

end Sys2Proof.Proofs
end

section
/-! PROOFS. The Frame Encoder (spec 42_frame_encoder.md): SUBMIT (O21), one ENCODE in closed form with its flags (O24, O25),
the ENCODEs of one frame together (O28, O32), the finished and the empty frame (O29, O30), and how a session moves (O31,
O39). -/

namespace Sys2Proof.Proofs

open Sys2Proof.Machine Sys2Proof.Laws

/-! ### SUBMIT (R103) -/

theorem execSubmit_of_inFlight {s : State} (cs : List Colour) (hc : s.cfg = .ready) (hin : s.inFlight) :
    execSubmit cs s = .next (raise .busy (afterDraw s)) := by
  simp only [execSubmit, cfgStatus, hc, if_pos hin]

theorem execSubmit_of_no_buffer {s : State} {cs : List Colour} (hc : s.cfg = .ready) (hin : ¬ s.inFlight)
    (hno : s.params.maxLeds < cs.length ∨ allocOk s = false) :
    execSubmit cs s = .next (raise .allocFail (afterDraw s)) := by
  simp only [execSubmit, cfgStatus, hc, if_neg hin, if_pos hno]

/-- R103: a refused SUBMIT leaves its response, and its draw consumed. -/
theorem eq_of_exec_submit_refused {cs : List Colour} {s t : State} {e : Status} (h : exec (.submit cs) s = .next t)
    (he : exec (.submit cs) s = .next (raise e (afterDraw s))) :
    t = { s with
      allocDraws := t.allocDraws, drawIndex := t.drawIndex, chan := s.chan ++ [response e 0 s.flags] } := by
  rw [he] at h
  cases h
  rfl

theorem keys_startSession (cs : List Colour) (s : State) :
    (startSession cs s).fb.map Prod.fst = List.range (startSession cs s).len := by
  rw [startSession_fb, startSession_len, Memory.keys_writeFrom _ _ _ (by simp), length_wireBytes, List.range_eq_range']
  rfl

/-- R103, R41: the Frame Buffer reads as the wire bytes and as nothing outside them. -/
theorem memRead_startSession (cs : List Colour) (s : State) (a : Nat) :
    memRead (startSession cs s) a = (wireBytes cs)[a]? := by
  have hbytes : frameBytes (startSession cs s) = wireBytes cs := Memory.values_writeFrom (wireBytes cs) 0 [] (by simp)
  rw [memRead_eq _ (keys_startSession cs s), hbytes]

/-- Settles O21, check by check: a premise of each clause picks the branch that SUBMIT takes. -/
theorem submitCommandEffect : Obligations.SubmitCommandEffect := by
  intro s cs
  obtain ⟨t, ht⟩ := exec_submit_next cs s
  refine ⟨t, ht, fun hc => ?_, fun hc => ?_, fun hc hin => ?_, fun hc hin hno => ?_, fun hc hin hlen hdraw => ?_⟩
  · exact eq_of_exec_submit_refused ht (exec_of_failed _ hc)
  · exact eq_of_exec_submit_refused ht (exec_of_cfgStatus nofun (by simp only [cfgStatus, hc]))
  · exact eq_of_exec_submit_refused ht (execSubmit_of_inFlight cs hc hin)
  · exact eq_of_exec_submit_refused ht (execSubmit_of_no_buffer hc hin hno)
  · cases ht.symm.trans (execSubmit_of_accepted hc hin hlen hdraw)
    exact ⟨memRead_startSession cs (afterDraw s), keys_startSession cs (afterDraw s), rfl⟩

/-! ### one accepted ENCODE (R105, R106) -/

/-- R105: the symbols of an invocation, cut off at the end of the frame. -/
theorem nextSyms_eq_take_min {s : State} (h : s.Inv) (space : Nat) :
    nextSyms space s = ((theFrame s).drop s.pos).take (min space (frameLength s - s.pos)) := by
  rw [nextSyms, List.take_eq_take_min, List.length_drop, length_theFrame h, frameLength]

/-- Settles O24: the state an invocation leaves is `invoked`, with the symbols written as those of the frame from the cursor
on. -/
theorem encodeClosedForm : Obligations.EncodeClosedForm := by
  rintro s space n h - hin rfl
  refine ⟨invoked space.toNat s, execEncode_of_inFlight h hin space, ?_, fun a => rfl⟩
  have hn : min space.toNat (frameLength s - s.pos) = (nextSyms space.toNat s).length := (length_nextSyms h _).symm
  rw [← nextSyms_eq_take_min h, hn]
  rfl

theorem flags_invoked {s : State} (h : s.Inv) (space : Nat) :
    (invoked space s).flags = flagsAfter space (min space (frameLength s - s.pos)) s :=
  congrArg (flagsAfter space · s) (length_nextSyms h space)

/-- Settles O25: the flags differ as the cursor comes to stand within the data and its end, or past it. -/
theorem encodeFlags : Obligations.EncodeFlags := by
  rintro s space n h - hin rfl
  have hpos := pos_le_of_inFlight h hin
  refine ⟨invoked space.toNat s, execEncode_of_inFlight h hin space, ?_⟩
  rw [flags_invoked h, flagsAfter]
  have hend : s.pos + min space.toNat (frameLength s - s.pos) ≤ frameLength s := by unfold frameLength; omega
  generalize min space.toNat (frameLength s - s.pos) = n at hend ⊢
  by_cases hopen : s.pos + n ≤ 8 * s.len
  · have hlt : s.pos + n < frameLength s := Nat.lt_succ_of_le hopen
    rw [if_pos hopen]
    simp [hlt, hlt.ne]
  · have heq : s.pos + n = frameLength s := hend.antisymm (Nat.lt_of_not_le hopen)
    rw [if_neg hopen]
    simp [heq]

/-! ### the ENCODEs of one session (R108, R113) -/

/-- R108: `t` is a state of the same session as `s`, its cursor moved on by `k` symbols or to the end of the frame. -/
structure Advances (k : Nat) (s t : State) : Prop where
  inv : t.Inv
  session : t.st ≠ .idle
  frame : theFrame t = theFrame s
  len : t.len = s.len
  pos : t.pos = min (s.pos + k) (frameLength s)

/-- R100: a session has a frame in flight or is Done. -/
theorem inFlight_or_done {s : State} (hst : s.st ≠ .idle) : s.inFlight ∨ s.st = .done := by
  cases hs : s.st
  case idle => exact absurd hs hst
  case encoding | appendingReset => simp [State.inFlight, hs]
  case done => exact .inr rfl

/-- R101: the cursor of a session never stands past the frame, and at its end exactly in Done. -/
theorem pos_le_frameLength {s : State} (h : s.Inv) (hst : s.st ≠ .idle) : s.pos ≤ frameLength s := by
  rcases inFlight_or_done hst with hin | hdone
  · exact (pos_le_of_inFlight h hin).trans (Nat.le_succ _)
  · exact (h.i5.2 hdone).le

theorem st_eq_done_iff {s : State} (h : s.Inv) (hst : s.st ≠ .idle) : s.st = .done ↔ s.pos = frameLength s := by
  refine ⟨h.i5.2, fun hend => (inFlight_or_done hst).resolve_left fun hin => ?_⟩
  exact absurd hend (Nat.lt_succ_of_le (pos_le_of_inFlight h hin)).ne

theorem st_ne_idle_of_inFlight {s : State} (hin : s.inFlight) : s.st ≠ .idle := by
  rcases hin with hst | hst <;> simp [hst]

namespace Advances

variable {j k : Nat} {s t u : State}

theorem frameLength_eq (hst : Advances k s t) : frameLength t = frameLength s := by
  rw [frameLength, hst.len, frameLength]

theorem refl (h : s.Inv) (hst : s.st ≠ .idle) : Advances 0 s s :=
  ⟨h, hst, rfl, rfl, (min_eq_left (pos_le_frameLength h hst)).symm⟩

theorem trans (hst : Advances j s t) (htu : Advances k t u) : Advances (j + k) s u where
  inv := htu.inv
  session := htu.session
  frame := htu.frame.trans hst.frame
  len := htu.len.trans hst.len
  pos := by
    rw [htu.pos, hst.frameLength_eq, hst.pos]
    omega

/-- R101, R109: the frame is finished when its cursor has nothing left before it. -/
theorem st_eq_done_iff (hst : Advances k s t) : t.st = .done ↔ frameLength s ≤ s.pos + k := by
  rw [Proofs.st_eq_done_iff hst.inv hst.session, hst.frameLength_eq, hst.pos, min_eq_right_iff]

theorem out_eq (hst : Advances k s t) : t.out = (theFrame s).take (min (s.pos + k) (frameLength s)) := by
  rw [hst.inv.i7 hst.session, hst.frame, hst.pos]

end Advances

/-- R104, R138: an ENCODE of a frame in flight is accepted, and one in Done is refused, with nothing left to push. -/
theorem execEncode_advances {s : State} (h : s.Inv) (hst : s.st ≠ .idle) (space : BitVec 28) :
    ∃ t, execEncode space s = .next t ∧ Advances space.toNat s t := by
  rcases inFlight_or_done hst with hin | hdone
  · refine ⟨_, execEncode_of_inFlight h hin space, inv_invoked h hin _, ?_, rfl, rfl, ?_⟩
    · rcases stAfter_cases s.len (s.pos + (nextSyms space.toNat s).length) with hin' | hdone
      · exact st_ne_idle_of_inFlight hin'
      · exact fun hidle => by cases hidle.symm.trans hdone
    · have hpos := pos_le_frameLength h hst
      rw [frameLength] at hpos
      rw [pos_invoked h, frameLength]
      omega
  · have hc := cfg_ready_of_st_ne_idle h hst
    have hend := h.i5.2 hdone
    refine ⟨raise .sessionComplete s, by simp only [execEncode, cfgStatus, hc, hdone], inv_raise _ h, hst, rfl, rfl, ?_⟩
    rw [raise_pos, hend, frameLength]
    omega

/-- By induction on the list of arguments. -/
theorem runEncodes_advances (spaces : List (BitVec 28)) {s : State} (h : s.Inv) (hst : s.st ≠ .idle) :
    ∃ t, runEncodes spaces s = .next t ∧ Advances (spaces.map BitVec.toNat).sum s t := by
  induction spaces generalizing s with
  | nil => exact ⟨s, rfl, .refl h hst⟩
  | cons space spaces ih =>
    obtain ⟨u, hu, hsu⟩ := execEncode_advances h hst space
    obtain ⟨t, ht, hut⟩ := ih hsu.inv hsu.session
    refine ⟨t, ?_, ?_⟩
    · simpa only [runEncodes, hu] using ht
    · rw [List.map_cons, List.sum_cons]
      exact hsu.trans hut

/-- Settles O28: the cursor moves on by the sum of the arguments, and the invariant says what `out` and `st` are there. -/
theorem resumptionSameSymbols : Obligations.ResumptionSameSymbols := by
  rintro s spaces total h hin rfl
  obtain ⟨t, ht, hadv⟩ := runEncodes_advances spaces h (st_ne_idle_of_inFlight hin)
  exact ⟨t, ht, hadv.out_eq, hadv.pos, hadv.st_eq_done_iff⟩

/-- Settles O32: as many arguments of at least 1 add up to at least that, and arguments of 0 to nothing. -/
theorem terminationMeasure : Obligations.TerminationMeasure := by
  rintro s m h hin rfl
  have hst := st_ne_idle_of_inFlight hin
  have hleft : s.pos < frameLength s := Nat.lt_succ_of_le (pos_le_of_inFlight h hin)
  refine ⟨fun space => ?_, fun spaces hroom hlen => ?_, fun spaces hzero => ?_⟩
  · obtain ⟨t, ht, hadv⟩ := execEncode_advances h hst space
    refine ⟨t, ht, ?_, fun hle => hadv.st_eq_done_iff.2 (by omega)⟩
    rw [hadv.frameLength_eq, hadv.pos]
    omega
  · obtain ⟨t, ht, hadv⟩ := runEncodes_advances spaces h hst
    have hsum : spaces.length ≤ (spaces.map BitVec.toNat).sum := by
      simpa using List.length_le_sum_of_one_le (spaces.map BitVec.toNat) (by simpa using hroom)
    exact ⟨t, ht, hadv.st_eq_done_iff.2 (by omega)⟩
  · obtain ⟨t, ht, hadv⟩ := runEncodes_advances spaces h hst
    have hsum : (spaces.map BitVec.toNat).sum = 0 := List.sum_eq_zero (by simpa using hzero)
    exact ⟨t, ht, fun hdone => absurd (hadv.st_eq_done_iff.1 hdone) (by omega)⟩

/-! ### the finished and the empty frame (R109, R110) -/

/-- Settles O29: `out` is the whole frame, whose reset symbol stands at its last place alone. -/
theorem finishedFrameTotal : Obligations.FinishedFrameTotal := by
  intro s h hdone
  have hout := out_of_done h hdone
  have hlen := length_theFrame h
  obtain ⟨leds, hleds, -⟩ := h.length
  refine ⟨hout, ⟨leds, hleds, by rw [hout, hlen]; omega⟩, fun p => ?_⟩
  rw [hout, hlen, theFrame, frameSyms_getElem?_eq_symR_iff, length_frameBytes s h.buffer]
  exact Nat.succ_inj.symm

/-- R105, R106: what an invocation leaves, told by the symbols it pushes. -/
theorem invoked_eq_of_nextSyms_eq {space : Nat} {s : State} {ys : List PulseSymbol} (h : nextSyms space s = ys) :
    invoked space s = respond .ok ys.length
      (progress ys (stAfter s.len (s.pos + ys.length)) (flagsAfter space ys.length s) s) := by
  subst h
  rfl

/-- Settles O30: after the SUBMIT the frame is one symbol, so all turns on whether there is room for it. -/
theorem emptyFrame : Obligations.EmptyFrame := by
  intro s space h hc hin hdraw
  have hu : (respond .ok 0 (startSession [] (afterDraw s))).Inv :=
    inv_respond _ _ (inv_startSession (inv_afterDraw h) hc [] (Nat.zero_le _))
  have hencode := execEncode_of_inFlight hu (.inl rfl) space
  refine ⟨_, execSubmit_of_accepted hc hin (Nat.zero_le _) hdraw, fun hroom => ?_, fun hzero => ?_⟩
  · have hsyms : nextSyms space.toNat (respond .ok 0 (startSession [] (afterDraw s))) = [s.table.symR] :=
      List.take_of_length_le hroom
    rw [invoked_eq_of_nextSyms_eq hsyms] at hencode
    exact ⟨_, hencode, rfl, rfl, rfl, List.append_assoc _ _ _⟩
  · have hsyms : nextSyms space.toNat (respond .ok 0 (startSession [] (afterDraw s))) = [] := by
      rw [hzero]
      exact List.take_zero
    rw [invoked_eq_of_nextSyms_eq hsyms] at hencode
    exact ⟨_, hencode, rfl, rfl, rfl, List.append_assoc _ _ _⟩

/-! ### how a session moves (R101, R111) -/

@[simp] theorem drawnBy_st (i : Instr) (s : State) : (drawnBy i s).st = s.st := by cases i <;> rfl
@[simp] theorem drawnBy_pos (i : Instr) (s : State) : (drawnBy i s).pos = s.pos := by cases i <;> rfl

/-- R111: from `s` to `t` nothing goes back. -/
def MovesForward (s t : State) : Prop :=
  s.pos ≤ t.pos ∧ s.out <+: t.out ∧ s.st.code.toNat ≤ t.st.code.toNat ∧
    (s.flags.complete = true → t.flags.complete = true)

theorem movesForward_of_eq {s t : State} (hpos : t.pos = s.pos) (hout : t.out = s.out) (hst : t.st = s.st)
    (hflags : t.flags = s.flags) : MovesForward s t :=
  ⟨hpos.ge, hout ▸ List.prefix_rfl, hst ▸ le_rfl, hflags ▸ id⟩

/-- R104: an invocation pushes at the end of `out` and moves `st` as its code rises; `complete` was not yet set. -/
theorem movesForward_invocation {space : Nat} {s t : State} (h : s.Inv) (hin : s.inFlight)
    (hx : invocation space s = .next t) : MovesForward s t := by
  have hopen : s.flags.complete ≠ true := fun hc => by
    rcases hin with hst | hst <;> cases hst.symm.trans (h.i5.1.2 hc)
  obtain ⟨ys, st', f, rfl, -, -, -, hst⟩ := invocation_next _ _ _ hx
  refine ⟨Nat.le_add_right _ _, List.prefix_append _ _, ?_, fun hc => absurd hc hopen⟩
  change s.st.code.toNat ≤ st'.code.toNat
  rcases hst with rfl | ⟨hs, rfl, -⟩ | ⟨hs, rfl, -⟩ | ⟨hs, rfl, -⟩
  · exact le_rfl
  all_goals rw [hs]; decide

/-- Settles O31: within a session a command is refused or an invocation; SUBMIT and TXDONE are accepted only from Done, and
leave it. -/
theorem monotoneProgress : Obligations.MonotoneProgress := by
  intro s t i h hx hwithin
  rcases exec_cases i s t hx with ⟨e, -, rfl⟩ | ⟨_, _, _, _, _, -, -, rfl⟩ | ⟨_, _, _, _, _, -, -, -, rfl⟩ |
    ⟨cs, -, -, hf, -, -, rfl⟩ | ⟨space, -, -, hin, hinv⟩ | ⟨-, -, hst, rfl⟩
  · exact movesForward_of_eq (by simp) (by simp) (by simp) (by simp)
  · exact movesForward_of_eq rfl rfl rfl rfl
  · exact movesForward_of_eq rfl rfl rfl rfl
  · obtain ⟨-, hdone⟩ := hwithin.resolve_left hf
    cases hdone
  · exact movesForward_invocation h hin hinv
  · rcases hwithin with hin | ⟨-, hdone⟩
    · rcases hin with hin | hin <;> cases hin.symm.trans hst
    · cases hdone

/-- Settles O39: a refused command and a CONFIG leave `st`, and each accepted one has its rows of the table. -/
theorem frameStateTransitions : Obligations.FrameStateTransitions := by
  intro s t i _ hx hne
  rcases exec_cases i s t hx with ⟨e, -, rfl⟩ | ⟨_, _, _, _, _, -, -, rfl⟩ | ⟨_, _, _, _, _, -, -, -, rfl⟩ |
    ⟨cs, rfl, -, hf, -, -, rfl⟩ | ⟨space, rfl, -, -, hinv⟩ | ⟨rfl, -, hst, rfl⟩
  · exact absurd (by simp) hne
  · exact absurd rfl hne
  · exact absurd rfl hne
  · exact .inl ⟨cs, rfl, hf, rfl⟩
  · obtain ⟨ys, st', f, rfl, -, -, -, hst⟩ := invocation_next _ _ _ hinv
    rcases hst with hsame | ⟨hs, rfl, hpos⟩ | ⟨hs, rfl, hpos⟩ | ⟨hs, rfl, -, hspace⟩
    · exact absurd hsame hne
    · exact .inr (.inl ⟨space, rfl, hs, .inl ⟨hpos, rfl⟩⟩)
    · exact .inr (.inl ⟨space, rfl, hs, .inr ⟨hpos, rfl⟩⟩)
    · exact .inr (.inr (.inl ⟨space, rfl, hspace, hs, rfl⟩))
  · exact .inr (.inr (.inr ⟨rfl, hst, rfl⟩))

end Sys2Proof.Proofs
end

section
/-! PROOFS. The Channel Driver (spec 43_channel_driver.md): a fair driver finishes every frame (O33), and TXDONE (O36). -/

namespace Sys2Proof.Proofs

open Sys2Proof.Machine Sys2Proof.Laws

/-! ### a fair driver (R122) -/

/-- R122: what a fair driver has offered grows past every bound; each further term of at least 1 adds to the sum before
it. -/
theorem exists_le_sum_map_range {f : Nat → Nat} (hfair : ∀ n, ∃ k, n ≤ k ∧ 1 ≤ f k) (m : Nat) :
    ∃ k, m ≤ ((List.range k).map f).sum := by
  induction m with
  | zero => exact ⟨0, Nat.zero_le _⟩
  | succ m ih =>
    obtain ⟨k, hk⟩ := ih
    obtain ⟨j, hkj, hj⟩ := hfair k
    have hmono : ((List.range k).map f).sum ≤ ((List.range j).map f).sum :=
      ((List.range_sublist.2 hkj).map f).sum_le_sum fun _ _ => Nat.zero_le _
    refine ⟨j + 1, ?_⟩
    rw [List.sum_range_succ]
    omega

/-- Settles O33: the sum of the arguments comes to reach the length of the frame, and then the frame is Done. -/
theorem fairDriverFinishes : Obligations.FairDriverFinishes := by
  intro s spaceAt h hin hfair
  obtain ⟨k, hk⟩ := exists_le_sum_map_range hfair (frameLength s)
  obtain ⟨t, ht, hadv⟩ := runEncodes_advances ((List.range k).map spaceAt) h (st_ne_idle_of_inFlight hin)
  rw [List.map_map] at hadv
  have hdone : t.st = .done := hadv.st_eq_done_iff.2 (Nat.le_add_left_of_le hk)
  exact ⟨k, t, ht, hdone, (out_of_done hadv.inv hdone).trans hadv.frame⟩

/-! ### TXDONE (R123) -/

theorem execTxdone_of_ne_done {s : State} (hc : s.cfg = .ready) (hst : s.st ≠ .done) :
    execTxdone s = .next (raise .spuriousTxDone s) := by
  simp only [execTxdone, cfgStatus, hc, if_pos hst]

/-- Settles O36, check by check: a premise of each clause picks the branch that TXDONE takes. -/
theorem txdoneCommandEffect : Obligations.TxdoneCommandEffect := by
  intro s
  refine ⟨fun hc => exec_of_failed .txdone hc, fun hc => ?_, execTxdone_of_ne_done, fun hc hst => ?_⟩
  · exact exec_of_cfgStatus nofun (by simp only [cfgStatus, hc])
  · exact ⟨_, execTxdone_of_done hc hst, memRead_of_len_eq_zero rfl, rfl⟩

end Sys2Proof.Proofs
end

section
/-! PROOFS. Exceptions (spec 60_exceptions.md): a command as the first check it fails or its accepted effect (R144), from
which the order of the statuses (O37), what a refusal leaves (O26, O38) and who looks at the draw (O51); and rest (O42). -/

namespace Sys2Proof.Proofs

open Sys2Proof.Machine Sys2Proof.Laws

/-! ### a command is refused by the first check that fails, or accepted (R144) -/

/-- R86, R103, R104, R123: the effect of a command that has passed every check. -/
def accept : Instr → State → Host.Outcome State Fault Refusal
  | .config a b c d e, s => .next (respond .ok 0 { s with table := tableOfOperands a b c d e, cfg := .ready })
  | .submit cs, s => .next (respond .ok 0 (startSession cs (afterDraw s)))
  | .encode space, s => invocation space.toNat s
  | .txdone, s => .next (respond .ok 0 (endSession s))

/-- R131: `cfg`, the one element of the block that a refusal can change, as a refusal leaves it. -/
def cfgRefused : Instr → Cfg → Cfg
  | .config _ _ _ _ _, .unconfigured => .failed
  | _, c => c

/-- What a refused command leaves besides its response. -/
def refusedBy (i : Instr) (s : State) : State := { drawnBy i s with cfg := cfgRefused i s.cfg }

@[simp] theorem refusedBy_chan (i : Instr) (s : State) : (refusedBy i s).chan = s.chan := drawnBy_chan i s
@[simp] theorem refusedBy_flags (i : Instr) (s : State) : (refusedBy i s).flags = s.flags := drawnBy_flags i s

/-- R131: only a CONFIG in Unconfigured does not leave `cfg`. -/
theorem cfgRefused_cases (i : Instr) (c : Cfg) :
    cfgRefused i c = c ∨
      (c = .unconfigured ∧ cfgRefused i c = .failed ∧ ∃ a b d e r, i = .config a b d e r) := by
  cases i with
  | config a b d e r =>
    cases c with
    | unconfigured => exact .inr ⟨rfl, rfl, a, b, d, e, r, rfl⟩
    | ready | failed => exact .inl rfl
  | submit | encode | txdone => exact .inl rfl

theorem refusedBy_of_cfg_ne_unconfigured {i : Instr} {s : State} (h : s.cfg ≠ .unconfigured) :
    refusedBy i s = drawnBy i s := by
  obtain hkeep | ⟨hc, -⟩ := cfgRefused_cases i s.cfg
  · rw [refusedBy, hkeep, ← drawnBy_cfg i s]
  · exact absurd hc h

section
variable {s : State}

theorem firstStatus_of_failed (i : Instr) (h : s.cfg = .failed) : firstStatus i s = .configError := if_pos h

theorem firstStatus_config_of_unconfigured (a b c d e : Word) (h : s.cfg = .unconfigured) :
    firstStatus (.config a b c d e) s =
      if validConfig s.params a.toNat b.toNat c.toNat d.toNat e.toNat then .ok else .configError := by
  simp only [firstStatus, h, reduceCtorEq, if_false]

theorem firstStatus_config_of_ready (a b c d e : Word) (h : s.cfg = .ready) :
    firstStatus (.config a b c d e) s = .alreadyConfigured := by
  simp only [firstStatus, h, reduceCtorEq, if_false, if_true]

theorem firstStatus_submit_of_ready (cs : List Colour) (h : s.cfg = .ready) :
    firstStatus (.submit cs) s =
      if s.inFlight then .busy
      else if s.params.maxLeds < cs.length ∨ allocOk s = false then .allocFail
      else .ok := by
  simp only [firstStatus, h, reduceCtorEq, if_false]

theorem firstStatus_encode_of_ready (space : BitVec 28) (h : s.cfg = .ready) :
    firstStatus (.encode space) s =
      if s.st = .idle then .noSession else if s.st = .done then .sessionComplete else .ok := by
  simp only [firstStatus, h, reduceCtorEq, if_false]

theorem firstStatus_txdone_of_ready (h : s.cfg = .ready) :
    firstStatus .txdone s = if s.st ≠ .done then .spuriousTxDone else .ok := by
  simp only [firstStatus, h, reduceCtorEq, if_false]

end

/-- R144 steps 2 to 5: outside Ready `cfg` alone decides a session command, and CONFIG its operands; in Ready the model
and `firstStatus` branch on the same conditions. -/
theorem exec_eq_of_firstStatus (i : Instr) (s : State) :
    exec i s = if firstStatus i s = .ok then accept i s else .next (raise (firstStatus i s) (refusedBy i s)) := by
  cases hc : s.cfg with
  | failed =>
    rw [exec_of_failed i hc, firstStatus_of_failed i hc, refusedBy_of_cfg_ne_unconfigured (by simp [hc]), if_neg nofun]
  | unconfigured =>
    cases i with
    | config a b c d e =>
      rw [exec_config_of_unconfigured a b c d e hc, firstStatus_config_of_unconfigured a b c d e hc, refusedBy, hc]
      split <;> rfl
    | submit | encode | txdone =>
      have hs : cfgStatus s = some .notReady := by simp only [cfgStatus, hc]
      refine (exec_of_cfgStatus (by nofun) hs).trans ?_
      simp only [firstStatus, hc, reduceCtorEq, if_false, if_true]
      rfl
  | ready =>
    rw [refusedBy_of_cfg_ne_unconfigured (by simp [hc])]
    cases i with
    | config a b c d e =>
      rw [exec_config_of_ready a b c d e hc, firstStatus_config_of_ready a b c d e hc]
      rfl
    | submit cs =>
      rw [firstStatus_submit_of_ready cs hc]
      by_cases hin : s.inFlight
      · rw [if_pos hin]
        exact execSubmit_of_inFlight cs hc hin
      · rw [if_neg hin]
        by_cases hno : s.params.maxLeds < cs.length ∨ allocOk s = false
        · rw [if_pos hno]
          exact execSubmit_of_no_buffer hc hin hno
        · rw [if_neg hno]
          simp only [not_or, Bool.not_eq_false, not_lt] at hno
          exact execSubmit_of_accepted hc hin hno.1 hno.2
    | encode space =>
      simp only [firstStatus_encode_of_ready space hc, exec, execEncode, cfgStatus, hc]
      cases s.st <;> rfl
    | txdone =>
      rw [firstStatus_txdone_of_ready hc]
      by_cases hst : s.st = .done
      · rw [if_neg (not_not_intro hst)]
        exact execTxdone_of_done hc hst
      · rw [if_pos hst]
        exact execTxdone_of_ne_done hc hst

theorem exec_of_refused {i : Instr} {s : State} (h : firstStatus i s ≠ .ok) :
    exec i s = .next (raise (firstStatus i s) (refusedBy i s)) := by
  rw [exec_eq_of_firstStatus, if_neg h]

theorem exec_of_accepted {i : Instr} {s : State} (h : firstStatus i s = .ok) : exec i s = accept i s := by
  rw [exec_eq_of_firstStatus, if_pos h]

/-- R60, R68: an accepted command answers OK, after the symbols it pushed. -/
theorem accept_chan {i : Instr} {s t : State} (h : accept i s = .next t) :
    ∃ pushed n, t.chan = s.chan ++ pushed ++ [response .ok n t.flags] := by
  cases i with
  | config | submit | txdone =>
    cases h
    exact ⟨[], 0, by simp⟩
  | encode space =>
    obtain ⟨ys, st', f, rfl, -⟩ := invocation_next _ _ _ h
    exact ⟨_, ys.length, rfl⟩

/-- Settles O37: the first status decides between the one response of a refusal and an OK. -/
theorem statusPriority : Obligations.StatusPriority := by
  constructor
  · intro s t i h
    by_cases hok : firstStatus i s = .ok
    · rw [exec_of_accepted hok] at h
      rw [hok]
      exact accept_chan h
    · cases (exec_of_refused hok).symm.trans h
      exact ⟨[], 0, by simp⟩
  · intro s t rest hr hd h
    cases (step_of_illegal hr hd).symm.trans h
    rfl

/-! ### a refusal changes nothing (R131) -/

/-- R132: the codes are all different; they number the statuses in order. -/
theorem code_injective : Function.Injective Status.code := by
  have hinv : Function.LeftInverse (fun c : BitVec 4 => Status.ofNat c.toNat) Status.code := by rintro ⟨⟩ <;> rfl
  exact hinv.injective

/-- R68: the status can be read off the first word of a response. -/
theorem status_eq_of_rsp0Word_eq {e e' : Status} {f f' : Flags} (h : rsp0Word e f.bits = rsp0Word e' f'.bits) : e = e' := by
  have hword := congrArg BitVec.toNat h
  simp only [rsp0Word, toNat_append_eq_mul_add] at hword
  have hbits := f.bits.isLt
  have hbits' := f'.bits.isLt
  exact code_injective (BitVec.eq_of_toNat_eq (by omega))

theorem status_eq_of_getLast? {ems : List Emission} {e e' : Status} {n : Nat} {f f' : Flags} {w : Word}
    (h : (ems ++ [response e' n f']).getLast? = some (.rsp (rsp0Word e f.bits) w)) : e' = e := by
  simp only [List.getLast?_concat, Option.some.injEq, response, Emission.rsp.injEq] at h
  exact status_eq_of_rsp0Word_eq h.1

/-- Settles O38: the status answered is the first that applies, so the command was refused. -/
theorem refusedCommandChangesNothing : Obligations.RefusedCommandChangesNothing := by
  intro s t i e f w he h hlast
  obtain ⟨pushed, n, hchan⟩ := statusPriority.1 s t i h
  rw [hchan] at hlast
  obtain rfl := status_eq_of_getLast? hlast
  cases (exec_of_refused he).symm.trans h
  refine ⟨by cases i <;> rfl, ?_⟩
  obtain hkeep | ⟨hc, hfailed, a, b, c, d, r, rfl⟩ := cfgRefused_cases i s.cfg
  · exact .inl hkeep
  · refine .inr ⟨hc, hfailed, ?_, a, b, c, d, r, rfl⟩
    rw [firstStatus_config_of_unconfigured a b c d r hc] at he ⊢
    split
    next hv => exact absurd (if_pos hv) he
    next => rfl

theorem exec_encode_of_idle {s : State} (space : BitVec 28) (hc : s.cfg = .ready) (hst : s.st = .idle) :
    exec (.encode space) s = .next (raise .noSession s) := by
  simp only [exec, execEncode, cfgStatus, hc, hst]

theorem exec_encode_of_done {s : State} (space : BitVec 28) (hc : s.cfg = .ready) (hst : s.st = .done) :
    exec (.encode space) s = .next (raise .sessionComplete s) := by
  simp only [exec, execEncode, cfgStatus, hc, hst]

/-- Settles O26: each premise decides the first check that an ENCODE fails. -/
theorem encodeRefused : Obligations.EncodeRefused := by
  intro s space
  refine ⟨fun hc => exec_of_failed _ hc, fun hc => ?_, fun hc hst => ?_, fun hc hst => ?_⟩
  · exact exec_of_cfgStatus nofun (by simp only [cfgStatus, hc])
  · exact exec_encode_of_idle space hc hst
  · exact exec_encode_of_done space hc hst

/-! ### what an accepted command neither reads nor writes -/

/-- `s` with all that an accepted CONFIG, ENCODE or TXDONE neither reads nor writes taken from `o`: the inputs to come, the
model's own counters, and the parameters that only `ValidConfig` reads. -/
def withSurroundings (o s : State) : State :=
  { s with
    params := { o.params with
      maxLeds := s.params.maxLeds, exactFitSetsMemFull := s.params.exactFitSetsMemFull }
    cmd := o.cmd
    resetLine := o.resetLine
    allocDraws := o.allocDraws
    drawIndex := o.drawIndex
    resetIndex := o.resetIndex }

section
variable (o s : State)

@[simp] theorem withSurroundings_st : (withSurroundings o s).st = s.st := rfl
@[simp] theorem withSurroundings_len : (withSurroundings o s).len = s.len := rfl
@[simp] theorem withSurroundings_pos : (withSurroundings o s).pos = s.pos := rfl
@[simp] theorem frameSym_withSurroundings (p : Nat) : frameSym (withSurroundings o s) p = frameSym s p := rfl
@[simp] theorem pushNext_withSurroundings (y : PulseSymbol) :
    pushNext y (withSurroundings o s) = withSurroundings o (pushNext y s) := rfl

@[simp] theorem bytesDone_withSurroundings :
    bytesDone (withSurroundings o s) = withSurroundings o (bytesDone s) := by
  rw [bytesDone, bytesDone, apply_ite (withSurroundings o)]
  rfl

theorem stage2_withSurroundings (space : Nat) (r : Nat × State) :
    stage2 space (Prod.map id (withSurroundings o) r) = Prod.map id (withSurroundings o) (stage2 space r) := by
  rw [stage2, stage2, apply_ite (Prod.map id (withSurroundings o))]
  rfl

theorem flowControl_withSurroundings (space n : Nat) :
    flowControl space n (withSurroundings o s) = withSurroundings o (flowControl space n s) := by
  rw [flowControl, flowControl, apply_ite (withSurroundings o), apply_ite (withSurroundings o)]
  rfl

theorem endInvocation_withSurroundings (space : Nat) (r : Nat × State) :
    endInvocation space (Prod.map id (withSurroundings o) r) = withSurroundings o (endInvocation space r) :=
  congrArg (respond .ok r.1) (flowControl_withSurroundings o r.2 space r.1)

/-- By induction on the room left: each turn reads the frame alone (R104). -/
theorem pushBits_withSurroundings (room n : Nat) (s : State) :
    pushBits room n (withSurroundings o s) = (pushBits room n s).map (Prod.map id (withSurroundings o)) := by
  induction room generalizing n s with
  | zero => rfl
  | succ room ih =>
    simp only [pushBits, withSurroundings_pos, withSurroundings_len, frameSym_withSurroundings,
      pushNext_withSurroundings, ih]
    split
    · split <;> rfl
    · rfl

theorem stage1_withSurroundings (space : Nat) :
    stage1 space (withSurroundings o s) = (stage1 space s).map (Prod.map id (withSurroundings o)) := by
  rw [stage1, stage1, apply_ite (Option.map (Prod.map id (withSurroundings o))), pushBits_withSurroundings,
    Option.map_map, Option.map_map]
  have hdone : (fun r : Nat × State => (r.1, bytesDone r.2)) ∘ Prod.map id (withSurroundings o) =
      Prod.map id (withSurroundings o) ∘ fun r => (r.1, bytesDone r.2) := by
    funext r
    simp
  rw [hdone]
  rfl

end

theorem invocation_withSurroundings {space : Nat} {s t : State} (o : State) (h : invocation space s = .next t) :
    invocation space (withSurroundings o s) = .next (withSurroundings o t) := by
  have hstage : stage1 space (beginInvocation (withSurroundings o s)) =
      (stage1 space (beginInvocation s)).map (Prod.map id (withSurroundings o)) :=
    stage1_withSurroundings o (beginInvocation s) space
  rw [invocation] at h ⊢
  rw [hstage]
  cases hr : stage1 space (beginInvocation s) with
  | none => rw [hr] at h; cases h
  | some r =>
    rw [hr] at h
    cases h
    rw [Option.map_some, ← endInvocation_withSurroundings, ← stage2_withSurroundings]

/-- R86, R104, R123: the effect of an accepted command other than SUBMIT does not depend on its surroundings. -/
theorem accept_withSurroundings {i : Instr} {s t : State} (o : State) (hi : ∀ cs, i ≠ .submit cs)
    (h : accept i s = .next t) : accept i (withSurroundings o s) = .next (withSurroundings o t) := by
  cases i with
  | submit cs => exact absurd rfl (hi cs)
  | config | txdone => cases h; rfl
  | encode space => exact invocation_withSurroundings o h

theorem accept_frame {i : Instr} {s t : State} (h : accept i s = .next t) :
    t.params = s.params ∧ t.cmd = s.cmd ∧ t.resetLine = s.resetLine ∧ t.resetIndex = s.resetIndex := by
  cases i with
  | config | submit | txdone =>
    cases h
    exact ⟨rfl, rfl, rfl, rfl⟩
  | encode space =>
    obtain ⟨ys, st', f, rfl, -⟩ := invocation_next _ _ _ h
    exact ⟨rfl, rfl, rfl, rfl⟩

/-! ### the draw (R29, R144) -/

theorem firstStatus_submit_ne_ok {cs : List Colour} {s : State} (h : s.cfg ≠ .ready ∨ s.inFlight) :
    firstStatus (.submit cs) s ≠ .ok := by
  cases hc : s.cfg with
  | unconfigured | failed => simp [firstStatus, hc]
  | ready =>
    rw [firstStatus_submit_of_ready cs hc, if_pos (h.resolve_left (not_not_intro hc))]
    nofun

/-- R144 step 5 c: the draw is the last thing looked at, and by SUBMIT alone. -/
theorem firstStatus_withDraws {i : Instr} {s : State} (hi : ∀ cs, i = .submit cs → s.cfg ≠ .ready ∨ s.inFlight)
    (draws : List Bool) (k : Nat) : firstStatus i { s with allocDraws := draws, drawIndex := k } = firstStatus i s := by
  cases i with
  | config | encode | txdone => rfl
  | submit cs =>
    obtain hc | hin := hi cs rfl
    · rcases cfg_of_ne_ready hc with hc | hc <;> simp [firstStatus, hc]
    · simp [firstStatus, hin]

/-- Settles O51: the first status is the same under other draws; so a refusal is the same but for the draw consumed, and
what is accepted is no SUBMIT. -/
theorem allocDrawUnread : Obligations.AllocDrawUnread := by
  intro s t i draws k hi h
  have hstatus := firstStatus_withDraws hi draws k
  by_cases hok : firstStatus i s = .ok
  · rw [exec_of_accepted hok] at h
    rw [exec_of_accepted (hstatus.trans hok)]
    have hsubmit : ∀ cs, i ≠ .submit cs := by
      rintro cs rfl
      exact firstStatus_submit_ne_ok (hi cs rfl) hok
    obtain ⟨hparams, hcmd, hline, hindex⟩ := accept_frame h
    refine ⟨draws, k, (accept_withSurroundings { s with allocDraws := draws, drawIndex := k } hsubmit h).trans ?_⟩
    simp only [withSurroundings, ← hparams, ← hcmd, ← hline, ← hindex]
  · cases (exec_of_refused hok).symm.trans h
    rw [exec_of_refused (hstatus.trans_ne hok), hstatus]
    cases i <;> exact ⟨_, _, rfl⟩

/-! ### rest (R152, R161) -/

/-- Settles O42: with nothing to run the step only reads its sample of the reset input. -/
theorem restHoldsState : Obligations.RestHoldsState := by
  intro s hr hd
  simp only [step, fetch, hr, hd, Bool.false_eq_true, if_false]
  rfl

end Sys2Proof.Proofs
end

section
/-! PROOFS. Reset and hazards (spec 70_reset_and_hazards.md): a failed start-up is final (O14), and CONFIG alone reads the
clock parameters (O52). -/

namespace Sys2Proof.Proofs

open Sys2Proof.Machine Sys2Proof.Laws

/-! ### a failed start-up (R163) -/

/-- R86, R133: in Ready a CONFIG answers AlreadyConfigured, and outside Ready a refused one leaves Failed. -/
theorem cfg_failed_of_config_answers_configError {a b c d e : Word} {s t : State}
    (h : exec (.config a b c d e) s = .next t) (hlast : t.chan.getLast? = some (response .configError 0 t.flags)) :
    t.cfg = .failed := by
  obtain ⟨pushed, n, hchan⟩ := statusPriority.1 s t _ h
  rw [hchan] at hlast
  have hstatus : firstStatus (.config a b c d e) s = .configError := status_eq_of_getLast? hlast
  cases (exec_of_refused (hstatus.trans_ne nofun)).symm.trans h
  cases hc : s.cfg with
  | unconfigured | failed => simp [refusedBy, cfgRefused, hc]
  | ready => simp [firstStatus_config_of_ready a b c d e hc] at hstatus

/-- In `t` start-up has failed, and no symbol has been pushed since `s`. -/
structure FailedSince (s t : State) : Prop where
  cfg : t.cfg = .failed
  out : t.out = s.out
  sym : symWords t = symWords s

theorem FailedSince.trans {s t u : State} (hst : FailedSince s t) (htu : FailedSince t u) : FailedSince s u :=
  ⟨htu.cfg, htu.out.trans hst.out, htu.sym.trans hst.sym⟩

@[simp] theorem drawnBy_resetLine (i : Instr) (s : State) : (drawnBy i s).resetLine = s.resetLine := by cases i <;> rfl

theorem symWords_congr {s t : State} (h : t.chan = s.chan) : symWords t = symWords s := by rw [symWords, symWords, h]

/-- R131, R133: a refusal in Failed pushes nothing and leaves `cfg`, whatever draw or word it has consumed. -/
theorem failedSince_raise {s u : State} (e : Status) (hc : u.cfg = .failed) (hout : u.out = s.out)
    (hchan : u.chan = s.chan) : FailedSince s (raise e u) :=
  ⟨hc, hout, (symWords_respond e 0 u).trans (symWords_congr hchan)⟩

/-- R163: in Failed every command and every illegal header is refused (R133, R140), and rest holds the state. -/
theorem step_of_failed {s : State} (hc : s.cfg = .failed) (hr : resetAsserted s = false) :
    ∃ t, step s = .next t ∧ FailedSince s t ∧ t.resetLine = s.resetLine.tail := by
  cases hd : decode s.cmd with
  | incomplete => exact ⟨_, restHoldsState s hr hd, ⟨hc, rfl, rfl⟩, rfl⟩
  | illegal rest => exact ⟨_, step_of_illegal hr hd, failedSince_raise _ hc rfl rfl, rfl⟩
  | command i rest =>
    refine ⟨_, (step_of_command hr hd).trans (exec_of_failed i hc), failedSince_raise _ ?_ ?_ ?_, ?_⟩
    · exact (drawnBy_cfg i _).trans hc
    · exact drawnBy_out i _
    · exact drawnBy_chan i _
    · exact drawnBy_resetLine i _

theorem resetAsserted_of_forall {s : State} (h : ∀ b ∈ s.resetLine, b = false) : resetAsserted s = false := by
  cases hline : s.resetLine with
  | nil => simp [resetAsserted, hline]
  | cons b bs => simp [resetAsserted, hline, h b (by simp [hline])]

/-- By induction on the number of steps: each finds the block in Failed and its sample of the reset input not asserted. -/
theorem run_of_failed (k : Nat) {s : State} (hc : s.cfg = .failed) (hline : ∀ b ∈ s.resetLine, b = false) :
    ∃ t, Sys2Proof.core.run k s = .next t ∧ FailedSince s t := by
  induction k generalizing s with
  | zero => exact ⟨s, rfl, hc, rfl, rfl⟩
  | succ k ih =>
    obtain ⟨u, hu, hsu, htail⟩ := step_of_failed hc (resetAsserted_of_forall hline)
    have hlineu : ∀ b ∈ u.resetLine, b = false := fun b hb => hline b (List.mem_of_mem_tail (htail ▸ hb))
    obtain ⟨t, ht, hut⟩ := ih hsu.cfg hlineu
    refine ⟨t, ?_, hsu.trans hut⟩
    simpa [Host.Core.run, Sys2Proof.core, hu] using ht

/-- Settles O14: the answer ConfigError tells a failed CONFIG, and from Failed only hardware reset leads out. -/
theorem failedIsFinal : Obligations.FailedIsFinal := by
  refine ⟨fun _ _ _ _ _ s t h hlast => cfg_failed_of_config_answers_configError h hlast, fun i s hc => ?_,
    fun k s hc hline => ?_⟩
  · exact ⟨_, exec_of_failed i hc, by rw [raise_cfg, drawnBy_cfg, hc], by rw [raise_chan, drawnBy_chan, drawnBy_flags]⟩
  · obtain ⟨t, ht, hsince⟩ := run_of_failed k hc hline
    exact ⟨t, ht, hsince.cfg, hsince.out, hsince.sym⟩

/-! ### the clock parameters (R6, R174) -/

/-- `p` with other values of the three parameters that only `ValidConfig` reads. -/
def withClock (hz ns nom : Nat) (p : Config.Params) : Config.Params :=
  { p with tickHz := hz, tolNs := ns, periodNomNs := nom }

/-- R144: the checks of the three session commands read no clock. -/
theorem firstStatus_withClock {i : Instr} (hi : ∀ a b c d e, i ≠ .config a b c d e) (hz ns nom : Nat) (s : State) :
    firstStatus i { s with params := withClock hz ns nom s.params } = firstStatus i s := by
  cases i with
  | config a b c d e => exact absurd rfl (hi a b c d e)
  | submit | encode | txdone => rfl

/-- R86, R103, R104, R123: once the checks have passed no command reads the clock. -/
theorem accept_withClock {i : Instr} {s t : State} (hz ns nom : Nat) (h : accept i s = .next t) :
    accept i { s with params := withClock hz ns nom s.params } =
      .next { t with params := withClock hz ns nom s.params } := by
  cases i with
  | config | submit | txdone => cases h; rfl
  | encode space =>
    have hclock := invocation_withSurroundings { s with params := withClock hz ns nom s.params } h
    obtain ⟨ys, st', f, rfl, -⟩ := invocation_next _ _ _ h
    exact hclock

/-- Settles O52: the first status is the same under another clock, and so is what a refusal or the accepted command
leaves. -/
theorem clockReadByConfigOnly : Obligations.ClockReadByConfigOnly := by
  intro s t i hz ns nom hi h
  have hstatus := firstStatus_withClock hi hz ns nom s
  by_cases hok : firstStatus i s = .ok
  · rw [exec_of_accepted hok] at h
    exact (exec_of_accepted (hstatus.trans hok)).trans (accept_withClock hz ns nom h)
  · cases (exec_of_refused hok).symm.trans h
    refine (exec_of_refused (hstatus.trans_ne hok)).trans ?_
    rw [hstatus]
    cases i <;> rfl

end Sys2Proof.Proofs
end
